-- ==== Sys2Proof/Word.lean ====
section
/-! DEFINITION. The bit vectors of the block: a raw value, a command word, the STATUS register, and the two-bit codes.
Bit 0 is the least significant bit (rule R6). The width `W` is a parameter of the instance (rule R3). -/

namespace Sys2Proof

/-- A raw counter value: the SAMPLE operand field, `last_raw` and STATUS.INFO (rules R3, R10, R13). -/
abbrev RawWord (W : Nat) := BitVec W

/-- A command word `cw`, exactly `W + 2` bits (rule R30). -/
abbrev CommandWord (W : Nat) := BitVec (W + 2)

/-- The STATUS register, `W + 3` bits (rule R13). -/
abbrev StatusWord (W : Nat) := BitVec (W + 3)

/-- A two-bit code: the `cmd` field (rule R32) or a cause code (rule R51). -/
abbrev Code := BitVec 2

end Sys2Proof
end

