-- ==== Sys2Proof/Config.lean ====
section
/-! DEFINITION. What one instance of the block fixes when it is built: the parameters `M`, `W` and `P`
(00_scope.md section 3, rules R2 to R4). The spec leaves no value free, so there is no free value here. -/

namespace Sys2Proof

/-- The parameter `P` (rule R4): unbounded, or a number of bits. -/
inductive PosWidth
  /-- `P = INF`: `true_position` is a mathematical integer. -/
  | inf
  /-- `P = n`: `true_position` is an `n`-bit two's-complement register. -/
  | bits (n : Nat)
deriving DecidableEq, Repr

/-- The parameters of one instance, "Fixed at construction; never mutated" (rules R2, R12). -/
structure Config where
  /-- The modulus: the raw counter's wrap period (rule R2). -/
  M : Nat
  /-- The raw width (rule R3). -/
  W : Nat
  /-- The position width (rule R4). -/
  P : PosWidth
deriving DecidableEq, Repr

/-- The default parameters of 00_scope.md section 3. -/
def Config.standard : Config := { M := 65536, W := 16, P := .bits 64 }

end Sys2Proof
end

