-- ==== Sys2Proof/Syntax.lean ====
section
/-! DEFINITION. The commands (one constructor per row of spec/opcode_table.json), the names of what the decoder and the
assembler reject, and the assembly commands of rule R37. -/

namespace Sys2Proof

/-- The commands of rule R36. The `raw` field of NOP and ZERO is ignored (rule R33) and is no operand of theirs. -/
inductive Instr
  /-- NOP, `cmd = 0b00` (rule R42). -/
  | nop
  /-- SAMPLE, `cmd = 0b01`, with the operand `r = zext(cw[W-1:0])` (rules R31, R39). -/
  | sample (raw : Nat)
  /-- ZERO, `cmd = 0b10` (rule R41). -/
  | zero
  /-- The reserved code, `cmd = 0b11`, with its raw bits, used only as fault information (rule R43). -/
  | reserved (raw : Nat)
deriving DecidableEq, Repr

/-- Why a number is no command word. -/
inductive DecodeError
  /-- It needs more than the `W + 2` bits every command word has (rules R24, R30, R35). -/
  | wordTooWide
deriving DecidableEq, Repr

/-- A `command` of the assembly grammar (rule R37). -/
inductive AsmCommand
  | sample (number : Nat)
  | zero
  | nop
  /-- Not a command word: one transaction with `rst = 1`. -/
  | reset
  /-- `.word number`: any command word given literally. -/
  | word (number : Nat)
deriving DecidableEq, Repr

/-- Why a line is an assembly error (rule R37). -/
inductive AsmError
  /-- The text is no `command` of the grammar. -/
  | badCommand
  /-- "`SAMPLE` with a number of `2^W` or more is an assembly error, not a word." -/
  | sampleTooLarge
  /-- `.word` with a number outside `[0, 2^(W+2))`. -/
  | wordTooLarge
deriving DecidableEq, Repr

end Sys2Proof
end

