-- ==== Sys2Proof/WellFormed.lean ====
section
/-! DEFINITION. When a command is one that a command word of width `W + 2` can carry: its raw operand is a `W`-bit value
(rules R31 and R36). The check `r < M` is part of SAMPLE's semantics, not of this one (rule R31). -/

namespace Sys2Proof

/-- A raw operand lies in `[0, 2^W)` (rule R31). -/
def rawFits (W raw : Nat) : Bool := decide (raw < 2 ^ W)

/-- The operands of a command fit the command word of an instance of raw width `W`. -/
def Instr.wellFormed (W : Nat) : Instr → Bool
  | .nop => true
  | .sample raw => rawFits W raw
  | .zero => true
  | .reserved raw => rawFits W raw

end Sys2Proof
end

