-- ==== Sys2Proof/Decode.lean ====
section
/-! DEFINITION. The fields of a command word (rule R30), the decoder (rule R36), the decoder of any number, which rejects
by name what is no command word (rules R24, R35), and the encoder, written from the same table (rule R32). -/

namespace Sys2Proof

/-- `cmd = cw[W+1:W]` (rule R30). -/
def cmdField {W : Nat} (cw : CommandWord W) : Code := cw.extractLsb' W 2

/-- `raw = cw[W-1:0]` (rule R30). -/
def rawField {W : Nat} (cw : CommandWord W) : RawWord W := cw.extractLsb' 0 W

/-- The decoder: total, no word fails to decode (rule R36). The last case is `cmd = 0b11`, the only code left. -/
def decode {W : Nat} (cw : CommandWord W) : Instr :=
  if cmdField cw = 0b00#2 then .nop
  else if cmdField cw = 0b01#2 then .sample (rawField cw).toNat
  else if cmdField cw = 0b10#2 then .zero
  else .reserved (rawField cw).toNat

/-- The decoder of any number: a command word is exactly `W + 2` bits (rule R30). -/
def decodeNat (W n : Nat) : Except DecodeError Instr :=
  if n < 2 ^ (W + 2) then .ok (decode (BitVec.ofNat (W + 2) n)) else .error .wordTooWide

/-- What the host's table words decode to, at the default width of the table's rows. An instruction is one command word of
18 bits whatever whole number of bytes `nbits` counts; a number of more bits is no command word (DESIGN CHOICE, safe, log entry 9). -/
def decodeTableWord (_nbits w : Nat) : Option Instr :=
  (decodeNat Config.standard.W w).toOption

/-- `{cmd, raw}`: the command word of the two fields (rule R30). -/
def makeWord {W : Nat} (cmd : Code) (raw : RawWord W) : CommandWord W :=
  (cmd ++ raw).cast (Nat.add_comm 2 W)

/-- The command code of a command (rule R32). -/
def Instr.code : Instr → Code
  | .nop => 0b00#2
  | .sample _ => 0b01#2
  | .zero => 0b10#2
  | .reserved _ => 0b11#2

/-- The raw field of a command: the operand, and 0 where the field is ignored, as the assembler emits it (rule R37). -/
def Instr.rawBits (W : Nat) : Instr → RawWord W
  | .nop => 0#W
  | .sample raw => BitVec.ofNat W raw
  | .zero => 0#W
  | .reserved raw => BitVec.ofNat W raw

/-- The command word of a command (rules R30 and R32). -/
def encode (W : Nat) (i : Instr) : CommandWord W := makeWord i.code (i.rawBits W)

end Sys2Proof
end

