-- ==== Sys2Proof/Machine/State.lean ====
section
/-! DEFINITION. The state of one tracker (rules R9 to R13), with its parameters, the values its response ports show
(rule R20) and the host's coming transactions (rule R21), as plain data; and the state after reset (rule R16). -/

namespace Sys2Proof.Machine

/-- The causes of rule R51. -/
inductive Cause
  | none
  | preconditionViolation
  | illegalCommand
  | positionOverflow
deriving DecidableEq, Repr

/-- The response of a transaction (rule R38), which the ports `resp_fault` and `resp_cause` keep showing (rule R20). -/
structure Response where
  fault : Bool
  cause : Cause
deriving DecidableEq, Repr

/-- The input of one transaction: the reset request and the command word (rules R20, R21, R50). -/
structure Transaction (W : Nat) where
  rst : Bool
  cw : CommandWord W
deriving DecidableEq, Repr

/-- The state. `lastRaw`, `truePosition` and `status` are the triple of rule R9, the position as its integer value (rules R11,
R17, DEDUCED, safe, log entry 6). `cfg` is fixed for the instance (rule R12, DESIGN CHOICE, safe, log entry 1). `resp` is what
the response ports show (rule R20, DEDUCED, safe, log entry 5). `host` is the model's own field: the transactions the host
issues next, in order (rule R26, DESIGN CHOICE, safe, log entry 3). There is no memory and nothing else the spec says the block
lacks (rules R15, R19, DEDUCED, safe, log entry 13). -/
structure State where
  cfg : Config
  lastRaw : RawWord cfg.W
  truePosition : Int
  status : StatusWord cfg.W
  resp : Response
  host : List (Transaction cfg.W)
deriving DecidableEq, Repr

/-- Reasons for the machine to stop with a fault: there are none. A fault of this block is recorded and answered, and the
block accepts the next transaction (rules R56, R57, R59), so it is a next state (DEDUCED, safe, log entry 7). The
type is empty, so it is a fact of the types that no step ends in a fault. -/
inductive Fault
deriving DecidableEq, Repr

/-- Reasons to refuse a step. -/
inductive Refusal
  /-- Raised by an arm of `exec` for a command without a meaning yet: no arm does so. Safe. -/
  | notModelled (mnemonic : String)
  /-- Raised by `step` and `powerUp` for parameters that break a constraint of 00_scope.md section 3: "a model refuses it,
  and it has no runs" (DEDUCED, log entry 2). Safe. -/
  | illegalConfiguration
deriving DecidableEq, Repr

/-- The response of a transaction that does not fault (rules R38, R64). -/
def Response.ok : Response := { fault := false, cause := .none }

/-- The state after reset of the instance with the given parameters (rules R16, R20), with nothing issued by the host. -/
def State.init (c : Config) : State :=
  { cfg := c, lastRaw := 0#_, truePosition := 0, status := 0#_, resp := .ok, host := [] }

/-- The state after reset of the default instance (rules R2 to R4, R16). -/
def State.reset : State := State.init Config.standard

end Sys2Proof.Machine
end

