-- ==== Sys2Proof/Machine/Flags.lean ====
section
/-! DEFINITION. The cause codes (rule R51), the fields of the STATUS register (rule R13) and the first-fault record
(rule R56). STATUS is the block's only flag register (rule R15). -/

namespace Sys2Proof.Machine

/-- The code of a cause (rule R51). -/
def Cause.code : Cause → Code
  | .none => 0#2
  | .preconditionViolation => 1#2
  | .illegalCommand => 2#2
  | .positionOverflow => 3#2

/-- The STATUS register with the given fields: INFO in `[W+2:3]`, CAUSE in `[2:1]`, FAULT in `[0]` (rule R13). -/
def statusPack {W : Nat} (fault : Bool) (cause : Code) (info : RawWord W) : StatusWord W :=
  (info ++ cause) ++ BitVec.ofBool fault

/-- STATUS.FAULT, bit `[0]` (rule R13). -/
def statusFault {W : Nat} (st : StatusWord W) : Bool := st.getLsbD 0

/-- STATUS.CAUSE, bits `[2:1]` (rule R13). -/
def statusCause {W : Nat} (st : StatusWord W) : Code := st.extractLsb' 1 2

/-- STATUS.INFO, bits `[W+2:3]` (rule R13). -/
def statusInfo {W : Nat} (st : StatusWord W) : RawWord W := st.extractLsb' 3 W

/-- STATUS after a fault: the first fault since reset is recorded, a later one leaves STATUS unchanged (rule R56). -/
def recordFault {W : Nat} (st : StatusWord W) (cause : Cause) (info : RawWord W) : StatusWord W :=
  if statusFault st then st else statusPack true cause.code info

/-- The STATUS invariant (rule R14). -/
def statusInvariant {W : Nat} (st : StatusWord W) : Bool :=
  if statusFault st then decide (statusCause st ≠ 0#2)
  else decide (statusCause st = 0#2) && decide (statusInfo st = 0#W)

end Sys2Proof.Machine
end

