-- ==== Sys2Proof/Machine/Operands.lean ====
section
/-! DEFINITION. The one operand form of the block: the raw field, as the integer the commands compute with, and as the
`W`-bit value that `last_raw` and STATUS.INFO hold (rules R31, R39, R56). -/

namespace Sys2Proof.Machine

/-- The raw operand as a register value: `zext_W(r)` in rule R39 and `cw[W-1:0]` in rule R56. A command that decoding
gives has an operand below `2^W`, so no bit is lost (DESIGN CHOICE, safe, log entry 8). -/
def rawRegister (W raw : Nat) : RawWord W := BitVec.ofNat W raw

/-- The raw operand as an integer: unsigned, never sign-extended, not scaled (rule R31). -/
def rawInteger (raw : Nat) : Int := (raw : Int)

/-- The range check of SAMPLE's operand: `raw` lies in `[0, M)` (rules R39, R52). -/
def rawInRange (c : Config) (raw : Nat) : Bool := decide (raw < c.M)

end Sys2Proof.Machine
end

