-- ==== Sys2Proof/Machine/Ops.lean ====
section
/-! DEFINITION. The shared operations: the constraints on the parameters, the correction and the width check on integers,
the register reads and writes, the response, raising a fault (the block's only exception, rule R56), the reset transaction
(the only return from a recorded fault, rules R59 and R64) and taking the host's next transaction. -/

namespace Sys2Proof.Machine

/-- The constraint on `P` at raw width `W`: `P = INF`, or `P >= max(32, W+1)` (rule R4). -/
def posWidthLegal (W : Nat) : PosWidth → Bool
  | .inf => true
  | .bits n => decide (max 32 (W + 1) ≤ n)

/-- The constraints of 00_scope.md section 3: `1 <= M <= 2^W`, `W >= 1`, and `P` as rule R4 says. -/
def configLegal (c : Config) : Bool :=
  decide (1 ≤ c.M) && decide (c.M ≤ 2 ^ c.W) && decide (1 ≤ c.W) && posWidthLegal c.W c.P

/-- Building an instance: power-up is a reset, so a run starts in the reset state (rule R64); a configuration that breaks a
constraint is refused and has no runs (00_scope.md section 3, I13). -/
def powerUp (c : Config) : Host.Outcome State Fault Refusal :=
  if configLegal c then .next (State.init c) else .refused .illegalConfiguration

/-- The wraparound correction (rule R40): exact integer thresholds, strict on both sides, for every `M`. -/
def corr (M : Nat) (delta : Int) : Int :=
  if 2 * delta > M then delta - M
  else if 2 * delta < -(M : Int) then delta + M
  else delta

/-- The width check (rules R4, R39, R54): the integer is one that `true_position` can hold. -/
def positionFits : PosWidth → Int → Bool
  | .inf, _ => true
  | .bits n, p => decide (-(2 : Int) ^ (n - 1) ≤ p) && decide (p ≤ (2 : Int) ^ (n - 1) - 1)

/-- `l = zext(s.last_raw)` (rule R39). -/
def State.lastRawInteger (s : State) : Int := (s.lastRaw.toNat : Int)

/-- The corrected delta `d` of a raw reading (rules R39, R40). -/
def State.correctedDelta (s : State) (raw : Nat) : Int :=
  corr s.cfg.M (rawInteger raw - s.lastRawInteger)

/-- The new position `p'` of a raw reading (rule R39). -/
def State.newPosition (s : State) (raw : Nat) : Int := s.truePosition + s.correctedDelta raw

/-- `s.true_position <- p` (rules R39, R41). -/
def State.writePosition (s : State) (p : Int) : State := { s with truePosition := p }

/-- `s.last_raw <- zext_W(r)` (rule R39). -/
def State.writeLastRaw (s : State) (raw : Nat) : State := { s with lastRaw := rawRegister s.cfg.W raw }

/-- `respond(ok)` (rules R7, R38). -/
def State.respondOk (s : State) : State := { s with resp := .ok }

/-- `raise Fault(cause, info)` (rule R56): STATUS keeps the first fault since reset, the response carries this one, and
nothing else is written. -/
def State.raiseFault (s : State) (cause : Cause) (info : RawWord s.cfg.W) : State :=
  { s with status := recordFault s.status cause info, resp := { fault := true, cause := cause } }

/-- The reset transaction (rules R16, R64): every register at its reset value and an ok response, the parameters and the
host's later transactions as they were. -/
def State.resetTracker (s : State) : State :=
  { s with lastRaw := 0#_, truePosition := 0, status := 0#_, resp := .ok }

/-- The host's next transaction, beside the state whose stream begins after it (rule R26); none where the host has issued
nothing (DESIGN CHOICE, safe, log entry 4). -/
def State.takeTransaction (s : State) : Option (Σ t : State, Transaction t.cfg.W) :=
  match s.host with
  | [] => none
  | tx :: rest => some ⟨{ s with host := rest }, tx⟩

/-- A transaction that carries a command word, with `rst = 0` (rules R20, R30). -/
def Transaction.command {W : Nat} (cw : CommandWord W) : Transaction W := { rst := false, cw := cw }

/-- A reset transaction; the word presented with it is ignored (rule R64), and 0 stands there. -/
def Transaction.reset (W : Nat) : Transaction W := { rst := true, cw := 0#(W + 2) }

end Sys2Proof.Machine
end

