-- ==== Sys2Proof/Machine/Commands.lean ====
section
/-! DEFINITION. The meaning of each command (40_tracker_commands.md, rules R39 to R43), one definition each. Every meaning
answers a next state: a fault of the block is recorded and answered (rules R56, R57). -/

namespace Sys2Proof.Machine

/-- NOP (rule R42). -/
def execNop (s : State) : Host.Outcome State Fault Refusal :=
  .next s.respondOk

/-- SAMPLE (rule R39): the range check first, then the width check (rule R58), then both writes together (rule R21). -/
def execSample (raw : Nat) (s : State) : Host.Outcome State Fault Refusal :=
  if rawInRange s.cfg raw then
    if positionFits s.cfg.P (s.newPosition raw) then
      .next (((s.writePosition (s.newPosition raw)).writeLastRaw raw).respondOk)
    else .next (s.raiseFault .positionOverflow (rawRegister s.cfg.W raw))
  else .next (s.raiseFault .preconditionViolation (rawRegister s.cfg.W raw))

/-- ZERO (rule R41): `last_raw` and STATUS are not written. -/
def execZero (s : State) : Host.Outcome State Fault Refusal :=
  .next (s.writePosition 0).respondOk

/-- The reserved code (rules R43, R53): always ILLEGAL_COMMAND. -/
def execReserved (raw : Nat) (s : State) : Host.Outcome State Fault Refusal :=
  .next (s.raiseFault .illegalCommand (rawRegister s.cfg.W raw))

end Sys2Proof.Machine
end

