-- ==== Sys2Proof/Machine/Dispatch.lean ====
section
/-! DEFINITION. The dispatch: one arm per command (rule R38). -/

namespace Sys2Proof.Machine

def exec (i : Instr) (s : State) : Host.Outcome State Fault Refusal :=
  match i with
  | .nop => Sys2Proof.Machine.execNop s
  | .sample raw => Sys2Proof.Machine.execSample raw s
  | .zero => Sys2Proof.Machine.execZero s
  | .reserved raw => Sys2Proof.Machine.execReserved raw s

end Sys2Proof.Machine
end

