-- ==== Sys2Proof/Machine/Transact.lean ====
section
/-! DEFINITION. One transaction applied to a state: the spec's own `step(s, rst, cw)` (rule R38). -/

namespace Sys2Proof.Machine

/-- One transaction (rule R38): with `rst = 1` a reset, which ignores the word, else the decoded command. -/
def transact (s : State) (tx : Transaction s.cfg.W) : Host.Outcome State Fault Refusal :=
  if tx.rst then .next s.resetTracker else exec (decode tx.cw) s

end Sys2Proof.Machine
end

