-- ==== Sys2Proof/Machine/Step.lean ====
section
/-! DEFINITION. One step of the machine: one transaction of the host (rules R21, R38). -/

namespace Sys2Proof.Machine

/-- One step: the host's next transaction, in the order the host issues them (rule R26). Where the host has issued nothing
the state stays as it is, since it changes only by transactions (rule R63, DESIGN CHOICE, safe, log entry 4). Illegal parameters are refused
(00_scope.md section 3). -/
def step (s : State) : Host.Outcome State Fault Refusal :=
  if configLegal s.cfg then
    match s.takeTransaction with
    | none => .next s
    | some ⟨t, tx⟩ => transact t tx
  else .refused .illegalConfiguration

/-- The state in which the host's next transaction is the command word `w`, with `rst = 0` (DESIGN CHOICE, safe, log entry 9). -/
def State.withFetchWord (s : State) (_nbits w : Nat) : State :=
  { s with host := Transaction.command (BitVec.ofNat (s.cfg.W + 2) w) :: s.host }

end Sys2Proof.Machine
end

