-- ==== Sys2Proof/Machine/Assembler.lean ====
section
/-! DEFINITION. The assembly language of rule R37: what each command assembles to, and reading a line of text. It is not
semantic (D20): it names command streams. White space, label characters and the radix letter are DESIGN CHOICE, safe, log entry 11. -/

namespace Sys2Proof.Machine

/-- The transaction a command assembles to (rule R37). -/
def assemble (W : Nat) : AsmCommand → Except AsmError (Transaction W)
  | .sample n =>
    if rawFits W n then .ok (Transaction.command (encode W (.sample n))) else .error .sampleTooLarge
  | .zero => .ok (Transaction.command (encode W .zero))
  | .nop => .ok (Transaction.command (encode W .nop))
  | .reset => .ok (Transaction.reset W)
  | .word n =>
    if n < 2 ^ (W + 2) then .ok (Transaction.command (BitVec.ofNat (W + 2) n)) else .error .wordTooLarge

/-- The value of a digit character in the given radix (10 or 16). -/
def digitValue (radix : Nat) (c : Char) : Option Nat :=
  let v := c.toLower.toNat
  let d := if 48 ≤ v ∧ v ≤ 57 then v - 48 else if 97 ≤ v ∧ v ≤ 102 then v - 87 else radix
  if d < radix then some d else none

/-- The number written by digits, the most significant first. -/
def digitsValue (radix : Nat) : Nat → List Char → Option Nat
  | acc, [] => some acc
  | acc, c :: cs =>
    match digitValue radix c with
    | none => none
    | some d => digitsValue radix (acc * radix + d) cs

/-- `number ::= decimal | '0x' hex` (rule R37). -/
def parseNumber : List Char → Option Nat
  | [] => none
  | ['0', 'x'] => none
  | '0' :: 'x' :: c :: cs => digitsValue 16 0 (c :: cs)
  | c :: cs => digitsValue 10 0 (c :: cs)

/-- The text before the first `';'`. -/
def dropComment : List Char → List Char
  | [] => []
  | c :: cs => if c = ';' then [] else c :: dropComment cs

/-- The text after the first `':'`, or all of it where there is none. -/
def dropLabel (line : List Char) : List Char :=
  match line.dropWhile (fun c => c != ':') with
  | [] => line
  | _ :: rest => rest

/-- The words of a text, split at spaces and tabs; `cur` is the word being read. -/
def splitWords : List Char → List Char → List (List Char)
  | cur, [] => if cur.isEmpty then [] else [cur]
  | cur, c :: cs =>
    if c = ' ' ∨ c = '\t' then
      (if cur.isEmpty then splitWords [] cs else cur :: splitWords [] cs)
    else splitWords (cur ++ [c]) cs

/-- A command of one word: ZERO, NOP or RESET, whatever the case of its letters (rule R37). -/
def parsePlain (w : List Char) : Option AsmCommand :=
  let m := w.map Char.toLower
  if m = ['z', 'e', 'r', 'o'] then some .zero
  else if m = ['n', 'o', 'p'] then some .nop
  else if m = ['r', 'e', 's', 'e', 't'] then some .reset
  else none

/-- A command of a word and a number: SAMPLE or `.word` (rule R37). -/
def parseWithNumber (w : List Char) (n : Nat) : Option AsmCommand :=
  let m := w.map Char.toLower
  if m = ['s', 'a', 'm', 'p', 'l', 'e'] then some (.sample n)
  else if m = ['.', 'w', 'o', 'r', 'd'] then some (.word n)
  else none

/-- A line: `[label ':'] [command] [';' comment]` (rule R37). A line without a command gives none. -/
def parseLine (line : List Char) : Except AsmError (Option AsmCommand) :=
  match splitWords [] (dropLabel (dropComment line)) with
  | [] => .ok none
  | [w] =>
    match parsePlain w with
    | some cmd => .ok (some cmd)
    | none => .error .badCommand
  | [w, num] =>
    match (parseNumber num).bind (parseWithNumber w) with
    | some cmd => .ok (some cmd)
    | none => .error .badCommand
  | _ => .error .badCommand

/-- `program ::= line*`: the transactions of the lines, in order, or the first error (rule R37). -/
def assembleProgram (W : Nat) : List (List Char) → Except AsmError (List (Transaction W))
  | [] => .ok []
  | line :: lines =>
    match parseLine line with
    | .error e => .error e
    | .ok none => assembleProgram W lines
    | .ok (some cmd) =>
      match assemble W cmd, assembleProgram W lines with
      | .error e, _ => .error e
      | .ok _, .error e => .error e
      | .ok tx, .ok txs => .ok (tx :: txs)

end Sys2Proof.Machine
end

