-- ==== Sys2Proof/Machine/Ports.lean ====
section
/-! DEFINITION. The ports of rule R20: the input ports as fields of a transaction, and the output ports as functions of the
state. Reading an output port is no transaction and changes nothing (rule R22). -/

namespace Sys2Proof.Machine

/-- The port `rst`. -/
def Transaction.rstPort {W : Nat} (tx : Transaction W) : BitVec 1 := BitVec.ofBool tx.rst

/-- The port `cmd`: `cw[W+1:W]`. -/
def Transaction.cmdPort {W : Nat} (tx : Transaction W) : Code := cmdField tx.cw

/-- The port `raw_in`: `cw[W-1:0]`. -/
def Transaction.rawInPort {W : Nat} (tx : Transaction W) : RawWord W := rawField tx.cw

/-- The transaction of an input triple `(rst, cmd, raw_in)` (rule R21). -/
def Transaction.ofPorts {W : Nat} (rst : BitVec 1) (cmd : Code) (rawIn : RawWord W) : Transaction W :=
  { rst := rst.getLsbD 0, cw := makeWord cmd rawIn }

/-- What `pos_out` can show: `P` bits, or an unbounded integer when `P = INF` (rule R20). -/
inductive PosOut
  | integer (value : Int)
  | vector (width : Nat) (value : BitVec width)
deriving DecidableEq, Repr

/-- `enc_P(i)`: the two's-complement encoding (rule R6). -/
def encP (n : Nat) (i : Int) : BitVec n := BitVec.ofInt n i

/-- A position as `pos_out` shows it at width `P` (rules R20, R22). -/
def showPosition (P : PosWidth) (i : Int) : PosOut :=
  match P with
  | .inf => .integer i
  | .bits n => .vector n (encP n i)

/-- The port `pos_out`: `enc_P(true_position)` at all times (rule R22). -/
def State.posOut (s : State) : PosOut := showPosition s.cfg.P s.truePosition

/-- The port `resp_fault`. -/
def State.respFault (s : State) : BitVec 1 := BitVec.ofBool s.resp.fault

/-- The port `resp_cause`. -/
def State.respCause (s : State) : Code := s.resp.cause.code

/-- The port `status_out`. -/
def State.statusOut (s : State) : StatusWord s.cfg.W := s.status

end Sys2Proof.Machine
end

