-- ==== Sys2Proof/Machine/Run.lean ====
section
/-! DEFINITION. Runs and what they show (rule R50): a finite list of transactions from the reset state, the ports after each
transaction, and the end state (DEDUCED, safe, log entry 10). -/

namespace Sys2Proof.Machine

/-- The reset state of an instance whose host issues the given transactions (rules R50, R64). -/
def State.loaded (c : Config) (txs : List (Transaction c.W)) : State := { State.init c with host := txs }

/-- The states after each of the next `k` steps. -/
def statesAfter : Nat → State → List State
  | 0, _ => []
  | k + 1, s =>
    match step s with
    | .next t => t :: statesAfter k t
    | .fault _ => []
    | .refused _ => []

/-- What one transaction shows at the ports (rules R20, R50). -/
structure Shown where
  respFault : BitVec 1
  respCause : Code
  posOut : PosOut
deriving DecidableEq, Repr

/-- The ports of a state. -/
def State.shown (s : State) : Shown :=
  { respFault := s.respFault, respCause := s.respCause, posOut := s.posOut }

/-- The observation of the run of the given transactions: what each shows, and the end state (rule R50). Illegal parameters
have no run (00_scope.md section 3). -/
def observeRun (c : Config) (txs : List (Transaction c.W)) : List Shown × Host.Outcome State Fault Refusal :=
  ((statesAfter txs.length (State.loaded c txs)).map State.shown,
    Host.Core.run Sys2Proof.core txs.length (State.loaded c txs))

/-- The next `k` transactions faulted: some response among them is a fault (rule R50). -/
def faultedWithin (k : Nat) (s : State) : Bool := (statesAfter k s).any fun t => t.resp.fault

end Sys2Proof.Machine
end

