-- ==== Sys2Proof/Machine/System.lean ====
section
/-! DEFINITION. Several instances (rule R5): the product of independent copies, each with its own parameters, state and
stream, and no order between the streams of different instances (D24): any instance may step next
(DEDUCED, safe, log entry 12). -/

namespace Sys2Proof.Machine

/-- A system of instances, one per encoder channel (rule R5). -/
abbrev System := List State

/-- Instance `k` takes one step and no other instance does; a number that names no instance changes nothing. -/
def System.stepInstance : System → Nat → Host.Outcome System Fault Refusal
  | [], _ => .next []
  | s :: rest, 0 =>
    match step s with
    | .next t => .next (t :: rest)
    | .fault r => .fault r
    | .refused r => .refused r
  | s :: rest, k + 1 =>
    match System.stepInstance rest k with
    | .next sys => .next (s :: sys)
    | .fault r => .fault r
    | .refused r => .refused r

end Sys2Proof.Machine
end

