-- ==== Sys2Proof/Safety.lean ====
section
/-! DEFINITION. The terms claims use: the invariant of rule R17, a run without a fault (rule R50), and the host's side of the
contract, the shaft and the counter it turns (rules R25, R29, R46, R68). The shaft is no part of the block. -/

namespace Sys2Proof

open Sys2Proof.Machine

/-- `true_position` is in the range of its register; no limit when `P = INF` (rule R17). -/
def positionInRange (s : State) : Prop :=
  ∀ n, s.cfg.P = .bits n →
    -(2 : Int) ^ (n - 1) ≤ s.truePosition ∧ s.truePosition ≤ (2 : Int) ^ (n - 1) - 1

/-- The state's invariant: rule R17, for legal parameters, with what the response ports show kept coherent (rules R20, R51):
a cause exactly when the last transaction faulted, and then STATUS.FAULT is 1 (rule R56). -/
structure TrackerInv (s : State) : Prop where
  legal : configLegal s.cfg = true
  lastRaw : s.lastRaw.toNat < s.cfg.M
  position : positionInRange s
  status : statusInvariant s.status = true
  response : s.resp.fault = true ↔ s.resp.cause ≠ .none
  recorded : s.resp.fault = true → statusFault s.status = true

/-- "STATUS.FAULT = 0 at the end": the premise claims about a run normally take (rule R50). -/
def noFaultRecorded (s : State) : Bool := !statusFault s.status

/-- The sampling-rate contract for one true displacement `t`: `2*|t| < M` (rule R68). A duty the block does not check. -/
abbrev samplingContract (M : Nat) (t : Int) : Prop := 2 * |t| < (M : Int)

/-- What the counter of period `M` reads when the shaft stands at tick `x`: the value in `[0, M)` congruent to `x`
(rules R25, R46; DEDUCED, unsafe for a counter that breaks the duties of rule R29, log entry 15). -/
def counterReading (M : Nat) (x : Int) : Nat := (x % (M : Int)).toNat

/-- The SAMPLE transactions of a host that reads the counter after each of the shaft's displacements `ts`, the shaft standing
at `x` before them (rules R25, R29). -/
def shaftSamples (c : Config) (x : Int) : List Int → List (Transaction c.W)
  | [] => []
  | t :: ts => Transaction.command (encode c.W (.sample (counterReading c.M (x + t)))) :: shaftSamples c (x + t) ts

/-- The sum of the corrected deltas of the raw readings `rs`, the one before them being `l` (rule R49). -/
def correctedSum (M : Nat) (l : Int) : List Nat → Int
  | [] => 0
  | r :: rs => corr M ((r : Int) - l) + correctedSum M (r : Int) rs

/-- No raw step of the readings is larger than half the modulus (rule R49). -/
def smallRawSteps (M : Nat) (l : Int) : List Nat → Prop
  | [] => True
  | r :: rs => 2 * |(r : Int) - l| ≤ (M : Int) ∧ smallRawSteps M (r : Int) rs

/-- `c(s) = (true_position - zext(last_raw)) mod M` (rule R45). -/
def congruence (s : State) : Int := (s.truePosition - (s.lastRaw.toNat : Int)) % (s.cfg.M : Int)

/-- A list is a merge of several contexts' lists: each element is the next one of some context, until all are used up
(rule R27, DEDUCED, safe, log entry 16). -/
inductive Merges {α : Type} : List (List α) → List α → Prop
  | done (ctxs : List (List α)) (h : ∀ c ∈ ctxs, c = []) : Merges ctxs []
  | pick (ctxs : List (List α)) (k : Nat) (a : α) (rest : List α) (out : List α)
      (h : ctxs[k]? = some (a :: rest)) (more : Merges (ctxs.set k rest) out) : Merges ctxs (a :: out)

end Sys2Proof
end

