-- ==== Sys2Proof/Certificates/Slice0/Obligations.lean ====
section
/-! DEFINITION. The statements for the provers. Each docstring names the rule of spec/ it formalises; OBLIGATIONS.json lists
them. They are about every instance: the parameters are data of the state (log entry 1). -/

open Sys2Proof Sys2Proof.Machine

/-! ## Encoding -/

/-- 95_test_vectors.md section 2.6 and the words of its programs, at W = 16, through the table's decoder (that
it takes no notice of `nbits` is the model's choice, log entry 9). -/
def Obligations.KnownWordsDecode : Prop :=
  decodeTableWord 24 0x00000 = some .nop ∧ decodeTableWord 24 0x0FFFF = some .nop ∧
  decodeTableWord 24 0x10000 = some (.sample 0) ∧ decodeTableWord 24 0x1FFFF = some (.sample 65535) ∧
  decodeTableWord 24 0x1EA65 = some (.sample 60005) ∧
  decodeTableWord 24 0x20000 = some .zero ∧ decodeTableWord 24 0x2ABCD = some .zero ∧
  decodeTableWord 24 0x30000 = some (.reserved 0) ∧ decodeTableWord 24 0x3FFFF = some (.reserved 0xFFFF)

/-- Rule R36, with the two fields of the word written as quotient and remainder by `2^W`. -/
def Obligations.DecodeFollowsTheCodes : Prop :=
  ∀ (W : Nat) (cw : CommandWord W),
    cw.toNat / 2 ^ W < 4 ∧
    (cw.toNat / 2 ^ W = 0 → decode cw = .nop) ∧
    (cw.toNat / 2 ^ W = 1 → decode cw = .sample (cw.toNat % 2 ^ W)) ∧
    (cw.toNat / 2 ^ W = 2 → decode cw = .zero) ∧
    (cw.toNat / 2 ^ W = 3 → decode cw = .reserved (cw.toNat % 2 ^ W))

/-- Decode and encode agree on every command a word can carry, at every width (rules R30 to R32, R36). -/
def Obligations.DecodeOfEncodeIsTheCommand : Prop :=
  ∀ (W : Nat) (i : Instr), i.wellFormed W = true → decode (encode W i) = i

/-- The other direction: decoding gives a command a word can carry, encoding it again gives a word with the same code, and
the very same word where the raw field is not ignored (rules R32, R33, R36). -/
def Obligations.EncodeOfDecodeIsTheWord : Prop :=
  ∀ (W : Nat) (cw : CommandWord W),
    (decode cw).wellFormed W = true ∧
    cmdField (encode W (decode cw)) = cmdField cw ∧
    (cmdField cw = 0b01#2 ∨ cmdField cw = 0b11#2 → encode W (decode cw) = cw)

/-- The word of a command is its code times `2^W` plus its raw field ("For a general `W`, the match is `cmd << W`",
rule R32; NOP and ZERO with a raw field of 0, rule R37). -/
def Obligations.EncodedWordIsCodeAndRaw : Prop :=
  ∀ (W r : Nat), r < 2 ^ W →
    (encode W .nop).toNat = 0 ∧ (encode W (.sample r)).toNat = 2 ^ W + r ∧
    (encode W .zero).toNat = 2 * 2 ^ W ∧ (encode W (.reserved r)).toNat = 3 * 2 ^ W + r

/-- A number is a command word exactly when it has at most `W + 2` bits (rules R30, R35); rejecting a wider one by name is
the model's choice (log entry 9). -/
def Obligations.OnlyWiderNumbersAreNoWord : Prop :=
  ∀ W n : Nat,
    (n < 2 ^ (W + 2) → decodeNat W n = .ok (decode (BitVec.ofNat (W + 2) n))) ∧
    (2 ^ (W + 2) ≤ n → decodeNat W n = .error .wordTooWide)

/-- Rule R33: the raw field of NOP and ZERO has no effect, and that of the reserved code only on a first fault's INFO. -/
def Obligations.IgnoredRawFieldHasNoEffect : Prop :=
  ∀ (s : State) (raw : RawWord s.cfg.W),
    exec (decode (makeWord 0b00#2 raw)) s = .next { s with resp := .ok } ∧
    exec (decode (makeWord 0b10#2 raw)) s = .next { s with truePosition := 0, resp := .ok } ∧
    exec (decode (makeWord 0b11#2 raw)) s =
      .next { s with
        status := if statusFault s.status then s.status else statusPack true 2#2 raw
        resp := { fault := true, cause := .illegalCommand } }

/-- Rule R34: every word with code 3 raises ILLEGAL_COMMAND and changes no tracker register, and no other word raises it. -/
def Obligations.OnlyTheReservedCodeIsIllegal : Prop :=
  ∀ (s t : State) (cw : CommandWord s.cfg.W), exec (decode cw) s = .next t →
    (t.resp = { fault := true, cause := .illegalCommand } ↔ cw.toNat / 2 ^ s.cfg.W = 3) ∧
    (cw.toNat / 2 ^ s.cfg.W = 3 → ∃ st, t = { s with status := st, resp := t.resp })

/-- The fields of a transaction built from the input ports are those ports (rules R20, R30). -/
def Obligations.PortsOfATransaction : Prop :=
  ∀ (W : Nat) (rst : BitVec 1) (cmd : Code) (raw : RawWord W),
    (Transaction.ofPorts rst cmd raw).rstPort = rst ∧
    (Transaction.ofPorts rst cmd raw).cmdPort = cmd ∧
    (Transaction.ofPorts rst cmd raw).rawInPort = raw

/-- Rule R37, the commands: what each assembles to, read back through the decoder, and the assembly errors (that `.word` with
a wider number is one is the model's choice, log entry 11). -/
def Obligations.AssemblerEmitsTheCommands : Prop :=
  ∀ W n : Nat,
    (n < 2 ^ W → ∃ tx, assemble W (.sample n) = .ok tx ∧ tx.rst = false ∧ decode tx.cw = .sample n) ∧
    (2 ^ W ≤ n → assemble W (.sample n) = .error .sampleTooLarge) ∧
    (∃ tx, assemble W .zero = .ok tx ∧ tx.rst = false ∧ decode tx.cw = .zero ∧ rawField tx.cw = 0#W) ∧
    (∃ tx, assemble W .nop = .ok tx ∧ tx.rst = false ∧ decode tx.cw = .nop ∧ rawField tx.cw = 0#W) ∧
    (∃ tx, assemble W .reset = .ok tx ∧ tx.rst = true) ∧
    (n < 2 ^ (W + 2) → ∃ tx, assemble W (.word n) = .ok tx ∧ tx.rst = false ∧ tx.cw.toNat = n) ∧
    (2 ^ (W + 2) ≤ n → assemble W (.word n) = .error .wordTooLarge)

/-! ## Parameters, reset and the step -/

/-- 00_scope.md section 3: parameters that break a constraint are refused and have no run; all others run. -/
def Obligations.IllegalParametersAreRefused : Prop :=
  ∀ s : State,
    let legal := 1 ≤ s.cfg.M ∧ s.cfg.M ≤ 2 ^ s.cfg.W ∧ 1 ≤ s.cfg.W ∧
      (s.cfg.P = .inf ∨ ∃ n, s.cfg.P = .bits n ∧ 32 ≤ n ∧ s.cfg.W + 1 ≤ n)
    (¬ legal → step s = .refused .illegalConfiguration ∧ powerUp s.cfg = .refused .illegalConfiguration) ∧
    (legal → (∃ t, step s = .next t) ∧ powerUp s.cfg = .next (State.init s.cfg))

/-- Rule R12: no command and no reset changes the parameters; neither does any other step. -/
def Obligations.ParametersNeverChange : Prop :=
  ∀ s t : State, step s = .next t → t.cfg = s.cfg

/-- Rule R16, at the default parameters: the values after reset, STATUS field by field; and the response ports (rule R20). -/
def Obligations.ResetStateValues : Prop :=
  State.reset.cfg = { M := 65536, W := 16, P := .bits 64 } ∧
  State.reset.lastRaw.toNat = 0 ∧ State.reset.truePosition = 0 ∧
  statusFault State.reset.status = false ∧ (statusCause State.reset.status).toNat = 0 ∧
  (statusInfo State.reset.status).toNat = 0 ∧
  State.reset.respFault.toNat = 0 ∧ State.reset.respCause.toNat = 0

/-- Rule R64: a transaction with `rst = 1` resets the registers, answers without a fault, ignores the word, keeps the
parameters, and the next transaction is accepted; power-up is a reset. -/
def Obligations.ResetTransactionResets : Prop :=
  ∀ (s : State) (cw : CommandWord s.cfg.W) (rest : List (Transaction s.cfg.W)),
    configLegal s.cfg = true → s.host = { rst := true, cw := cw } :: rest →
    step s = .next { s with lastRaw := 0#_, truePosition := 0, status := 0#_, resp := .ok, host := rest } ∧
    powerUp s.cfg = .next { s with lastRaw := 0#_, truePosition := 0, status := 0#_, resp := .ok, host := [] } ∧
    ∃ t, step { s with lastRaw := 0#_, truePosition := 0, status := 0#_, resp := .ok, host := rest } = .next t

/-- One step is one transaction of the host, in order (rules R21, R26, R38): `exec` of the decoded word on the state whose
stream begins after it, a reset when `rst = 1`, and nothing when the host has issued nothing (log entry 4). -/
def Obligations.StepRunsTheDecodedCommand : Prop :=
  ∀ s : State, configLegal s.cfg = true →
    (s.host = [] → step s = .next s) ∧
    ∀ (tx : Transaction s.cfg.W) (rest : List (Transaction s.cfg.W)), s.host = tx :: rest →
      (tx.rst = false → step s = exec (decode tx.cw) { s with host := rest }) ∧
      (tx.rst = true → step s = .next ({ s with host := rest } : State).resetTracker)

/-- Rule R71: no transaction takes forever; the block takes every transaction the host issues and never hangs. The
stream in the state is the model's choice (log entry 3). -/
def Obligations.RunTakesEveryTransaction : Prop :=
  ∀ s : State, configLegal s.cfg = true →
    ∃ t : State, Host.Core.run Sys2Proof.core s.host.length s = .next t ∧ t.cfg = s.cfg ∧ t.host = []

/-! ## The commands -/

/-- Rule R42: NOP completes in every state and changes nothing but the response. -/
def Obligations.NopOnlyResponds : Prop :=
  ∀ s : State, exec .nop s = .next { s with resp := .ok }

/-- Rule R41: ZERO completes in every state, a recorded fault or not, writes 0 to `true_position` and nothing else. -/
def Obligations.ZeroWritesOnlyThePosition : Prop :=
  ∀ s : State, exec .zero s = .next { s with truePosition := 0, resp := .ok }

/-- Rule R39: SAMPLE, its three ends in the order of the checks, with the correction of rule R40 written out. -/
def Obligations.SampleFollowsTheRule : Prop :=
  ∀ (s : State) (r : Nat),
    let M : Int := s.cfg.M
    let delta : Int := (r : Int) - (s.lastRaw.toNat : Int)
    let d : Int := if 2 * delta > M then delta - M else if 2 * delta < -M then delta + M else delta
    let p : Int := s.truePosition + d
    let fits := ∀ n, s.cfg.P = .bits n → -(2 : Int) ^ (n - 1) ≤ p ∧ p ≤ (2 : Int) ^ (n - 1) - 1
    let record (c : Cause) : StatusWord s.cfg.W :=
      if statusFault s.status then s.status else statusPack true c.code (BitVec.ofNat s.cfg.W r)
    (r < s.cfg.M → fits →
      exec (.sample r) s =
        .next { s with lastRaw := BitVec.ofNat s.cfg.W r, truePosition := p, resp := .ok }) ∧
    (s.cfg.M ≤ r →
      exec (.sample r) s =
        .next { s with
          status := record .preconditionViolation
          resp := { fault := true, cause := .preconditionViolation } }) ∧
    (r < s.cfg.M → ¬ fits →
      exec (.sample r) s =
        .next { s with
          status := record .positionOverflow
          resp := { fault := true, cause := .positionOverflow } })

/-- Rules R43 and R53: the reserved code always raises ILLEGAL_COMMAND, writes no tracker register, and its raw bits are
the INFO of a first fault. -/
def Obligations.ReservedRaisesIllegalCommand : Prop :=
  ∀ (s : State) (x : Nat),
    exec (.reserved x) s =
      .next { s with
        status := if statusFault s.status then s.status else statusPack true 2#2 (BitVec.ofNat s.cfg.W x)
        resp := { fault := true, cause := .illegalCommand } }

/-- The frames of the four commands: whatever a command is given, the fields it does not name here are those of the state
before. The parameters and the host's later transactions stay in every case (rules R39 to R43, R56, R57). -/
def Obligations.FramesOfTheCommands : Prop :=
  ∀ s t : State,
    (exec .nop s = .next t → t = { s with resp := t.resp }) ∧
    (exec .zero s = .next t → t = { s with truePosition := t.truePosition, resp := t.resp }) ∧
    (∀ r, exec (.sample r) s = .next t →
      (t.resp.fault = false → ∃ l, t = { s with lastRaw := l, truePosition := t.truePosition, resp := t.resp }) ∧
      (t.resp.fault = true → ∃ st, t = { s with status := st, resp := t.resp })) ∧
    (∀ x, exec (.reserved x) s = .next t → ∃ st, t = { s with status := st, resp := t.resp })

/-- PRECONDITION_VIOLATION exactly on out-of-range raw values, never when `M = 2^W` (rule R52); the next SAMPLE measures
from the last good raw value, as the frame of a faulting SAMPLE says. -/
def Obligations.PreconditionViolationExactly : Prop :=
  ∀ (s t : State) (r : Nat), exec (.sample r) s = .next t →
    (t.resp.cause = .preconditionViolation ↔ s.cfg.M ≤ r) ∧
    (s.cfg.M ≤ r → t.lastRaw.toNat = s.lastRaw.toNat ∧ t.truePosition = s.truePosition ∧ t.resp.fault = true) ∧
    (s.cfg.M = 2 ^ s.cfg.W → Instr.wellFormed s.cfg.W (.sample r) = true →
      t.resp.cause ≠ .preconditionViolation)

/-- POSITION_OVERFLOW (rule R54) takes a finite `P` and a position within half a modulus of the end of the range. -/
def Obligations.OverflowOnlyNearTheEnds : Prop :=
  ∀ (s t : State) (r : Nat), TrackerInv s → exec (.sample r) s = .next t → t.resp.cause = .positionOverflow →
    ∃ n, s.cfg.P = .bits n ∧
      (2 ^ n ≤ 2 * s.truePosition + (s.cfg.M : Int) ∨ 2 * s.truePosition - (s.cfg.M : Int) < -(2 : Int) ^ n) ∧
      t.truePosition = s.truePosition ∧ t.lastRaw.toNat = s.lastRaw.toNat

/-- The growth that rule R54's count of SAMPLEs rests on: over any `n` steps the magnitude of the position grows by at most
`n` times half the modulus. A reset or a ZERO may move the position further, but only to 0. -/
def Obligations.PositionGrowsByHalfAModulus : Prop :=
  ∀ (s t : State) (n : Nat), TrackerInv s → Host.Core.run Sys2Proof.core n s = .next t →
    2 * |t.truePosition| ≤ 2 * |s.truePosition| + (n : Int) * (s.cfg.M : Int)

/-- Where none of the next `n` transactions is a reset or a ZERO, the position itself moves by at most `n` times half the
modulus (rules R44, R54). -/
def Obligations.PositionMovesByAtMostHalfAModulus : Prop :=
  ∀ (s t : State) (n : Nat), TrackerInv s →
    (∀ tx ∈ s.host.take n, tx.rst = false ∧ decode tx.cw ≠ .zero) →
    Host.Core.run Sys2Proof.core n s = .next t →
    2 * |t.truePosition - s.truePosition| ≤ (n : Int) * (s.cfg.M : Int)

/-! ## Faults and STATUS -/

/-- The codes of rule R51, as the `resp_cause` port and STATUS.CAUSE show them. -/
def Obligations.CauseCodes : Prop :=
  Cause.code .none = 0#2 ∧ Cause.code .preconditionViolation = 1#2 ∧
  Cause.code .illegalCommand = 2#2 ∧ Cause.code .positionOverflow = 3#2

/-- The layout of rule R13: FAULT is bit 0, CAUSE bits 2 to 1, INFO the bits above; and a STATUS word is its fields. -/
def Obligations.StatusLayout : Prop :=
  ∀ (W : Nat),
    (∀ (f : Bool) (c : Code) (i : RawWord W),
      (statusPack f c i).toNat = f.toNat + 2 * c.toNat + 8 * i.toNat ∧
      statusFault (statusPack f c i) = f ∧ statusCause (statusPack f c i) = c ∧ statusInfo (statusPack f c i) = i) ∧
    (∀ st : StatusWord W, statusPack (statusFault st) (statusCause st) (statusInfo st) = st)

/-- Rules R56 and R57: after a faulting transaction the tracker registers are as before, STATUS has the first fault since
reset, with the raw field of the raising word, and the block accepts the next transaction. -/
def Obligations.FaultsArePreciseAndFirstIsKept : Prop :=
  ∀ (s t : State) (tx : Transaction s.cfg.W) (rest : List (Transaction s.cfg.W)),
    configLegal s.cfg = true → s.host = tx :: rest → step s = .next t → t.resp.fault = true →
    t = { s with
      status := if statusFault s.status then s.status else statusPack true t.resp.cause.code (rawField tx.cw)
      resp := { fault := true, cause := t.resp.cause }
      host := rest } ∧
    ∃ u, step t = .next u

/-- Rule R58: the order of the checks, as the response of the next transaction. -/
def Obligations.ChecksHaveOneOrder : Prop :=
  ∀ (s t : State) (tx : Transaction s.cfg.W) (rest : List (Transaction s.cfg.W)),
    configLegal s.cfg = true → s.host = tx :: rest → step s = .next t →
    let code := tx.cw.toNat / 2 ^ s.cfg.W
    let r := tx.cw.toNat % 2 ^ s.cfg.W
    let p := s.truePosition + corr s.cfg.M ((r : Int) - (s.lastRaw.toNat : Int))
    let fits := ∀ n, s.cfg.P = .bits n → -(2 : Int) ^ (n - 1) ≤ p ∧ p ≤ (2 : Int) ^ (n - 1) - 1
    (tx.rst = true → t.resp = .ok) ∧
    (tx.rst = false → code = 3 → t.resp = { fault := true, cause := .illegalCommand }) ∧
    (tx.rst = false → code = 0 ∨ code = 2 → t.resp = .ok) ∧
    (tx.rst = false → code = 1 → s.cfg.M ≤ r → t.resp = { fault := true, cause := .preconditionViolation }) ∧
    (tx.rst = false → code = 1 → r < s.cfg.M → ¬ fits →
      t.resp = { fault := true, cause := .positionOverflow }) ∧
    (tx.rst = false → code = 1 → r < s.cfg.M → fits → t.resp = .ok)

/-- Rule R14: the STATUS invariant holds after reset and is kept by every step; a recorded fault stays, with its cause and
its information, until a reset; and only a reset clears it. -/
def Obligations.StatusInvariantAndFirstFault : Prop :=
  (∀ c : Config, statusFault (State.init c).status = false ∧ statusCause (State.init c).status = 0#2 ∧
    statusInfo (State.init c).status = 0#_) ∧
  ∀ s t : State, step s = .next t →
    ((statusFault s.status = false → statusCause s.status = 0#2 ∧ statusInfo s.status = 0#_) ∧
      (statusFault s.status = true → statusCause s.status ≠ 0#2) →
      (statusFault t.status = false → statusCause t.status = 0#2 ∧ statusInfo t.status = 0#_) ∧
        (statusFault t.status = true → statusCause t.status ≠ 0#2)) ∧
    (statusFault s.status = true → (∀ tx rest, s.host = tx :: rest → tx.rst = false) →
      t.status.toNat = s.status.toNat) ∧
    (statusFault s.status = true → statusFault t.status = false → ∃ tx rest, s.host = tx :: rest ∧ tx.rst = true)

/-- Rule R50: a run in which no reset follows faulted exactly when STATUS.FAULT is 1 at its end. -/
def Obligations.FaultedRunIsRecorded : Prop :=
  ∀ (s t : State) (k : Nat), k ≤ s.host.length → statusFault s.status = false →
    (∀ tx ∈ s.host.take k, tx.rst = false) → Host.Core.run Sys2Proof.core k s = .next t →
    (faultedWithin k s = true ↔ statusFault t.status = true)

/-! ## Who writes what -/

/-- Rule R10: only a completing SAMPLE writes `last_raw`, with its operand, and reset writes 0; it stays below the modulus. -/
def Obligations.LastRawWriters : Prop :=
  ∀ s t : State, step s = .next t →
    (t.lastRaw.toNat = s.lastRaw.toNat ∨
      ∃ tx rest, s.host = tx :: rest ∧
        (tx.rst = true ∧ t.lastRaw.toNat = 0 ∨
          tx.rst = false ∧ t.resp.fault = false ∧
            ∃ r, decode tx.cw = .sample r ∧ r < s.cfg.M ∧ t.lastRaw.toNat = r)) ∧
    (s.lastRaw.toNat < s.cfg.M → t.lastRaw.toNat < t.cfg.M)

/-- Rule R11: only a completing SAMPLE, ZERO and reset write `true_position`; it stays in the range of its register. -/
def Obligations.TruePositionWriters : Prop :=
  ∀ s t : State, step s = .next t →
    (t.truePosition = s.truePosition ∨
      ∃ tx rest, s.host = tx :: rest ∧
        (tx.rst = true ∧ t.truePosition = 0 ∨
          tx.rst = false ∧ decode tx.cw = .zero ∧ t.truePosition = 0 ∨
          tx.rst = false ∧ t.resp.fault = false ∧
            ∃ r, decode tx.cw = .sample r ∧
              t.truePosition = s.truePosition + corr s.cfg.M ((r : Int) - (s.lastRaw.toNat : Int)))) ∧
    (positionInRange s → positionInRange t)

/-- Rule R22: `pos_out` shows the position, as the integer or as the `P`-bit vector whose signed value it is; after a ZERO
it shows 0, at either kind of width. -/
def Obligations.PosOutShowsThePosition : Prop :=
  ∀ s : State, TrackerInv s →
    (s.cfg.P = .inf → s.posOut = .integer s.truePosition) ∧
    (∀ n, s.cfg.P = .bits n → ∃ v : BitVec n, s.posOut = .vector n v ∧ v.toInt = s.truePosition) ∧
    (∀ t n, exec .zero s = .next t → s.cfg.P = .bits n → t.posOut = .vector n 0#n) ∧
    (∀ t, exec .zero s = .next t → s.cfg.P = .inf → t.posOut = .integer 0)

/-! ## Invariants -/

/-- The invariant holds at reset. -/
def Obligations.ResetMeetsTheInvariant : Prop := TrackerInv State.reset

/-- Rule R17, with the response ports' coherence (log entry 5): every step keeps the invariant, from every state that meets
it. -/
def Obligations.StepKeepsTheInvariant : Prop :=
  ∀ s t : State, TrackerInv s → step s = .next t → TrackerInv t

/-- Rule R17, as the spec says it: what every reachable state of every instance satisfies. -/
def Obligations.ReachableStatesMeetTheInvariant : Prop :=
  ∀ (c : Config) (txs : List (Transaction c.W)) (k : Nat) (t : State), configLegal c = true →
    Host.Core.run Sys2Proof.core k (State.loaded c txs) = .next t →
    t.lastRaw.toNat < c.M ∧
    (∀ n, c.P = .bits n → -(2 : Int) ^ (n - 1) ≤ t.truePosition ∧ t.truePosition ≤ (2 : Int) ^ (n - 1) - 1) ∧
    (statusFault t.status = false → statusCause t.status = 0#2 ∧ statusInfo t.status = 0#_) ∧
    (statusFault t.status = true → statusCause t.status ≠ 0#2)

/-- Rule R27: whatever the order in which the arbiter merges the contexts' streams, the run completes in a state that meets
the invariant. What a merge is, each context's order kept and all of it used up, is the model's reading (DEDUCED, log entry
16), and so is the clause that no transaction is lost, which rests on it; the invariant's clauses on the response are log
entry 5. -/
def Obligations.EveryMergeIsARun : Prop :=
  ∀ (c : Config) (ctxs : List (List (Transaction c.W))) (txs : List (Transaction c.W)),
    configLegal c = true → Merges ctxs txs →
    txs.length = (ctxs.map List.length).sum ∧
    ∃ t, Host.Core.run Sys2Proof.core txs.length (State.loaded c txs) = .next t ∧ t.host = [] ∧ TrackerInv t

/-- Rule R5: a step of one instance is that instance's own step, and no other instance's state changes. -/
def Obligations.InstancesAreIndependent : Prop :=
  ∀ (sys sys' : System) (k : Nat), System.stepInstance sys k = .next sys' →
    sys'.length = sys.length ∧
    (∀ j, j ≠ k → sys'[j]? = sys[j]?) ∧
    (∀ s, sys[k]? = some s → ∃ t, sys'[k]? = some t ∧ step s = .next t)

/-! ## Laws of the commands -/

/-- Rule R40: the correction, its agreement with the floor division taken before the negation, at most one branch, and that
the floor of the negative is another rule for odd `M`. -/
def Obligations.CorrectionThresholds : Prop :=
  ∀ (M : Nat) (delta : Int), 1 ≤ M →
    (2 * delta > M → corr M delta = delta - M) ∧
    (2 * delta < -(M : Int) → corr M delta = delta + M) ∧
    (-(M : Int) ≤ 2 * delta → 2 * delta ≤ M → corr M delta = delta) ∧
    (delta > (M : Int) / 2 ↔ 2 * delta > M) ∧ (delta < -((M : Int) / 2) ↔ 2 * delta < -(M : Int)) ∧
    ¬ (2 * delta > M ∧ 2 * delta < -(M : Int)) ∧
    (M % 2 = 1 → ∃ e : Int, ¬ (e < -(M : Int) / 2 ↔ 2 * e < -(M : Int)))

/-- Rule R44: the values, the residue and the range of the correction. -/
def Obligations.CorrectionRange : Prop :=
  ∀ (M : Nat) (delta : Int), -(M : Int) < delta → delta < M →
    (corr M delta = delta - M ∨ corr M delta = delta ∨ corr M delta = delta + M) ∧
    corr M delta % (M : Int) = delta % (M : Int) ∧
    -(M : Int) ≤ 2 * corr M delta ∧ 2 * corr M delta ≤ M ∧
    (corr M delta = delta ↔ -(M : Int) ≤ 2 * delta ∧ 2 * delta ≤ M) ∧
    (2 * corr M delta = M ∨ 2 * corr M delta = -(M : Int) → corr M delta = delta)

/-- Rule R45: what every transaction does to `(true_position - last_raw) mod M`, what a host recovers, and the congruence
of the two registers in a run without ZERO. -/
def Obligations.CongruenceOfPositionAndRaw : Prop :=
  (∀ (s t : State) (tx : Transaction s.cfg.W) (rest : List (Transaction s.cfg.W)),
    TrackerInv s → s.host = tx :: rest → step s = .next t →
    (tx.rst = true → congruence t = 0) ∧
    (tx.rst = false → decode tx.cw = .zero → congruence t = (-(s.lastRaw.toNat : Int)) % (s.cfg.M : Int)) ∧
    (tx.rst = false → decode tx.cw ≠ .zero → congruence t = congruence s) ∧
    (∀ r, tx.rst = false → decode tx.cw = .sample r → t.resp.fault = false →
      (s.lastRaw.toNat : Int) = ((r : Int) - (t.truePosition - s.truePosition)) % (s.cfg.M : Int))) ∧
  (∀ (c : Config) (txs : List (Transaction c.W)) (k : Nat) (t : State), configLegal c = true →
    (∀ tx ∈ txs, tx.rst = true ∨ decode tx.cw ≠ .zero) →
    Host.Core.run Sys2Proof.core k (State.loaded c txs) = .next t →
    t.truePosition % (c.M : Int) = (t.lastRaw.toNat : Int) % (c.M : Int))

/-- Rule R46: the correction finds the true displacement within the sampling contract; at exactly half a modulus, on the
side the rule names; beyond it, never: there it finds the one congruent value in range, or the tie the rule names. -/
def Obligations.UnwrappingIsCorrectWithinContract : Prop :=
  ∀ (M : Nat) (l r t : Int), 0 ≤ l → l < M → 0 ≤ r → r < M → r % (M : Int) = (l + t) % (M : Int) →
    (2 * |t| < M → corr M (r - l) = t) ∧
    (2 * |t| = M →
      (corr M (r - l) = t ↔ (0 < t ∧ 2 * l < M) ∨ (t < 0 ∧ (M : Int) ≤ 2 * l)) ∧
      (corr M (r - l) = t ∨ corr M (r - l) = -t)) ∧
    ((M : Int) < 2 * |t| →
      corr M (r - l) ≠ t ∧ corr M (r - l) % (M : Int) = t % (M : Int) ∧
      -(M : Int) ≤ 2 * corr M (r - l) ∧ 2 * corr M (r - l) ≤ M ∧
      (∀ v : Int, v % (M : Int) = t % (M : Int) → -(M : Int) ≤ 2 * v → 2 * v ≤ M →
        2 * |corr M (r - l)| ≠ M → v = corr M (r - l)) ∧
      (2 * |corr M (r - l)| = M → (0 < corr M (r - l) ↔ 2 * l < M)))

/-- Rule R47: the correction is odd, ties included, and SAMPLE b then SAMPLE a from `last_raw = a` brings the position back,
if neither faults. -/
def Obligations.DirectionReversalIsExact : Prop :=
  (∀ (M : Nat) (delta : Int), -(M : Int) < delta → delta < M → corr M (-delta) = -corr M delta) ∧
  (∀ (s t u : State) (b : Nat), TrackerInv s → exec (.sample b) s = .next t → t.resp.fault = false →
    exec (.sample s.lastRaw.toNat) t = .next u → u.resp.fault = false →
    u.truePosition = s.truePosition ∧ u.lastRaw.toNat = s.lastRaw.toNat)

/-- Rule R48: a repeated read changes nothing: on a state whose position is in range, and after any completing SAMPLE. -/
def Obligations.RepeatedReadChangesNothing : Prop :=
  (∀ s : State, TrackerInv s → exec (.sample s.lastRaw.toNat) s = .next { s with resp := .ok }) ∧
  (∀ (s t : State) (r : Nat), configLegal s.cfg = true → exec (.sample r) s = .next t → t.resp.fault = false →
    exec (.sample r) t = .next t)

/-- Rule R49, the sum: after completing SAMPLEs the position has moved by the sum of the corrected deltas, and by the last
reading less the first where no raw step is larger than half the modulus; a ZERO sets the running value to 0 and leaves the
readings going on from the real `last_raw`. -/
def Obligations.PositionIsTheSumOfDeltas : Prop :=
  (∀ s z : State, exec .zero s = .next z → z.truePosition = 0 ∧ z.lastRaw.toNat = s.lastRaw.toNat) ∧
  ∀ (s t : State) (rs : List Nat), configLegal s.cfg = true →
    s.host = rs.map (fun r => Transaction.command (encode s.cfg.W (.sample r))) →
    (∀ r ∈ rs, r < 2 ^ s.cfg.W) → faultedWithin rs.length s = false →
    Host.Core.run Sys2Proof.core rs.length s = .next t →
    t.truePosition = s.truePosition + correctedSum s.cfg.M (s.lastRaw.toNat : Int) rs ∧
    (smallRawSteps s.cfg.M (s.lastRaw.toNat : Int) rs →
      t.truePosition = s.truePosition + (t.lastRaw.toNat : Int) - (s.lastRaw.toNat : Int))

/-- Rule R69: a SAMPLE right after a ZERO computes its delta from the `last_raw` before the ZERO. From a legal state it
always completes when its operand is in range. -/
def Obligations.NoHazardAcrossZero : Prop :=
  ∀ (s z : State) (r : Nat), TrackerInv s → r < s.cfg.M → exec .zero s = .next z →
    ∃ t, exec (.sample r) z = .next t ∧ t.resp.fault = false ∧ t.lastRaw.toNat = r ∧
      t.truePosition = corr s.cfg.M ((r : Int) - (s.lastRaw.toNat : Int))

/-- Rules R66 and R67: the first SAMPLE after reset completes and measures from 0, and a ZERO after it makes the present
reading the origin. -/
def Obligations.FirstSampleAndPriming : Prop :=
  ∀ (c : Config) (r : Nat), configLegal c = true → r < c.M →
    exec (.sample r) (State.init c) =
      .next { State.init c with lastRaw := BitVec.ofNat c.W r, truePosition := corr c.M (r : Int) } ∧
    exec .zero { State.init c with lastRaw := BitVec.ofNat c.W r, truePosition := corr c.M (r : Int) } =
      .next { State.init c with lastRaw := BitVec.ofNat c.W r } ∧
    (BitVec.ofNat c.W r).toNat = r

/-! ## The shaft -/

/-- The block's purpose (rules R1, R46, R49, R68): while the host samples within the contract, the position follows the
shaft, however often the counter wraps. From any state that agrees with the counter; the positions met must fit `P`. -/
def Obligations.PositionFollowsTheShaft : Prop :=
  ∀ (s : State) (x : Int) (ts : List Int), TrackerInv s → s.lastRaw.toNat = counterReading s.cfg.M x →
    (∀ t ∈ ts, samplingContract s.cfg.M t) →
    (∀ k n, s.cfg.P = .bits n →
      -(2 : Int) ^ (n - 1) ≤ s.truePosition + (ts.take k).sum ∧
      s.truePosition + (ts.take k).sum ≤ (2 : Int) ^ (n - 1) - 1) →
    s.host = shaftSamples s.cfg x ts →
    ∃ t, Host.Core.run Sys2Proof.core ts.length s = .next t ∧
      t.truePosition = s.truePosition + ts.sum ∧
      t.lastRaw.toNat = counterReading s.cfg.M (x + ts.sum) ∧
      t.status.toNat = s.status.toNat ∧ faultedWithin ts.length s = false

/-- Rule R55: an aliased SAMPLE, at `P = INF` or wherever its new position fits, completes with no signal, and its answer is
not the shaft's displacement. The counter's reading is the model's (log entry 15). -/
def Obligations.AliasingGivesNoSignal : Prop :=
  ∀ (s t : State) (x d : Int), TrackerInv s → s.lastRaw.toNat = counterReading s.cfg.M x →
    (s.cfg.M : Int) < 2 * |d| →
    (let p := s.truePosition + corr s.cfg.M ((counterReading s.cfg.M (x + d) : Int) - (s.lastRaw.toNat : Int))
      ∀ n, s.cfg.P = .bits n → -(2 : Int) ^ (n - 1) ≤ p ∧ p ≤ (2 : Int) ^ (n - 1) - 1) →
    exec (.sample (counterReading s.cfg.M (x + d))) s = .next t →
    t.resp = .ok ∧ t.status.toNat = s.status.toNat ∧ t.truePosition ≠ s.truePosition + d

/-- Rule R72, its second way: with a modulus larger than the counter's period `period`, no reading of the counter raises
PRECONDITION_VIOLATION, and the one tick across the counter's wrap, forward or backward, completes with no signal and moves
the position by something else than that tick, wherever the new position fits. For all legal parameters and every period. -/
def Obligations.LargerModulusIsUndetected : Prop :=
  ∀ (s : State) (period : Nat), TrackerInv s → 1 ≤ period → period < s.cfg.M →
    let fits (r : Nat) := ∀ n, s.cfg.P = .bits n →
      -(2 : Int) ^ (n - 1) ≤ s.truePosition + corr s.cfg.M ((r : Int) - (s.lastRaw.toNat : Int)) ∧
      s.truePosition + corr s.cfg.M ((r : Int) - (s.lastRaw.toNat : Int)) ≤ (2 : Int) ^ (n - 1) - 1
    (∀ r t, r < period → exec (.sample r) s = .next t → t.resp.cause ≠ .preconditionViolation) ∧
    (s.lastRaw.toNat = period - 1 → fits 0 →
      ∃ t, exec (.sample 0) s = .next t ∧ t.resp = .ok ∧ t.status.toNat = s.status.toNat ∧
        t.truePosition ≠ s.truePosition + 1) ∧
    (s.lastRaw.toNat = 0 → fits (period - 1) →
      ∃ t, exec (.sample (period - 1)) s = .next t ∧ t.resp = .ok ∧ t.status.toNat = s.status.toNat ∧
        t.truePosition ≠ s.truePosition - 1)

/-- The worked example of rule R72 (V29), at the default parameters: the counter's period is 60000 and `M` is 65536, and one
tick forward across the counter's wrap reads as 5537, unsignalled. -/
def Obligations.LargerModulusExample : Prop :=
  ∀ (s t : State), s.cfg = Config.standard → s.lastRaw.toNat = 59999 → |s.truePosition| < 2 ^ 62 →
    exec (.sample 0) s = .next t → t.resp = .ok ∧ t.truePosition = s.truePosition + 5537
end

