-- ==== Sys2Proof/Laws/State.lean ====
section
/-! SUPPORT. One lemma for each field under each update of State, so that no proof unfolds a record update. -/

namespace Sys2Proof.Machine

@[simp] theorem State.writePosition_cfg (s : State) (p : Int) : (s.writePosition p).cfg = s.cfg := rfl
@[simp] theorem State.writePosition_lastRaw (s : State) (p : Int) : (s.writePosition p).lastRaw = s.lastRaw := rfl
@[simp] theorem State.writePosition_truePosition (s : State) (p : Int) : (s.writePosition p).truePosition = p := rfl
@[simp] theorem State.writePosition_status (s : State) (p : Int) : (s.writePosition p).status = s.status := rfl
@[simp] theorem State.writePosition_resp (s : State) (p : Int) : (s.writePosition p).resp = s.resp := rfl
@[simp] theorem State.writePosition_host (s : State) (p : Int) : (s.writePosition p).host = s.host := rfl

@[simp] theorem State.writeLastRaw_cfg (s : State) (raw : Nat) : (s.writeLastRaw raw).cfg = s.cfg := rfl
@[simp] theorem State.writeLastRaw_lastRaw (s : State) (raw : Nat) : (s.writeLastRaw raw).lastRaw = rawRegister s.cfg.W raw := rfl
@[simp] theorem State.writeLastRaw_truePosition (s : State) (raw : Nat) : (s.writeLastRaw raw).truePosition = s.truePosition := rfl
@[simp] theorem State.writeLastRaw_status (s : State) (raw : Nat) : (s.writeLastRaw raw).status = s.status := rfl
@[simp] theorem State.writeLastRaw_resp (s : State) (raw : Nat) : (s.writeLastRaw raw).resp = s.resp := rfl
@[simp] theorem State.writeLastRaw_host (s : State) (raw : Nat) : (s.writeLastRaw raw).host = s.host := rfl

@[simp] theorem State.respondOk_cfg (s : State) : s.respondOk.cfg = s.cfg := rfl
@[simp] theorem State.respondOk_lastRaw (s : State) : s.respondOk.lastRaw = s.lastRaw := rfl
@[simp] theorem State.respondOk_truePosition (s : State) : s.respondOk.truePosition = s.truePosition := rfl
@[simp] theorem State.respondOk_status (s : State) : s.respondOk.status = s.status := rfl
@[simp] theorem State.respondOk_resp (s : State) : s.respondOk.resp = .ok := rfl
@[simp] theorem State.respondOk_host (s : State) : s.respondOk.host = s.host := rfl

@[simp] theorem State.raiseFault_cfg (s : State) (cause : Cause) (info : RawWord s.cfg.W) : (s.raiseFault cause info).cfg = s.cfg := rfl
@[simp] theorem State.raiseFault_lastRaw (s : State) (cause : Cause) (info : RawWord s.cfg.W) : (s.raiseFault cause info).lastRaw = s.lastRaw := rfl
@[simp] theorem State.raiseFault_truePosition (s : State) (cause : Cause) (info : RawWord s.cfg.W) : (s.raiseFault cause info).truePosition = s.truePosition := rfl
@[simp] theorem State.raiseFault_status (s : State) (cause : Cause) (info : RawWord s.cfg.W) : (s.raiseFault cause info).status = recordFault s.status cause info := rfl
@[simp] theorem State.raiseFault_resp (s : State) (cause : Cause) (info : RawWord s.cfg.W) : (s.raiseFault cause info).resp = { fault := true, cause := cause } := rfl
@[simp] theorem State.raiseFault_host (s : State) (cause : Cause) (info : RawWord s.cfg.W) : (s.raiseFault cause info).host = s.host := rfl

@[simp] theorem State.resetTracker_cfg (s : State) : s.resetTracker.cfg = s.cfg := rfl
@[simp] theorem State.resetTracker_lastRaw (s : State) : s.resetTracker.lastRaw = 0#_ := rfl
@[simp] theorem State.resetTracker_truePosition (s : State) : s.resetTracker.truePosition = 0 := rfl
@[simp] theorem State.resetTracker_status (s : State) : s.resetTracker.status = 0#_ := rfl
@[simp] theorem State.resetTracker_resp (s : State) : s.resetTracker.resp = .ok := rfl
@[simp] theorem State.resetTracker_host (s : State) : s.resetTracker.host = s.host := rfl

@[simp] theorem State.init_cfg (c : Config) : (State.init c).cfg = c := rfl
@[simp] theorem State.init_lastRaw (c : Config) : (State.init c).lastRaw = 0#_ := rfl
@[simp] theorem State.init_truePosition (c : Config) : (State.init c).truePosition = 0 := rfl
@[simp] theorem State.init_status (c : Config) : (State.init c).status = 0#_ := rfl
@[simp] theorem State.init_resp (c : Config) : (State.init c).resp = .ok := rfl
@[simp] theorem State.init_host (c : Config) : (State.init c).host = [] := rfl

@[simp] theorem State.withFetchWord_cfg (s : State) (nbits w : Nat) : (s.withFetchWord nbits w).cfg = s.cfg := rfl
@[simp] theorem State.withFetchWord_lastRaw (s : State) (nbits w : Nat) : (s.withFetchWord nbits w).lastRaw = s.lastRaw := rfl
@[simp] theorem State.withFetchWord_truePosition (s : State) (nbits w : Nat) : (s.withFetchWord nbits w).truePosition = s.truePosition := rfl
@[simp] theorem State.withFetchWord_status (s : State) (nbits w : Nat) : (s.withFetchWord nbits w).status = s.status := rfl
@[simp] theorem State.withFetchWord_resp (s : State) (nbits w : Nat) : (s.withFetchWord nbits w).resp = s.resp := rfl
@[simp] theorem State.withFetchWord_host (s : State) (nbits w : Nat) :
    (s.withFetchWord nbits w).host = Transaction.command (BitVec.ofNat (s.cfg.W + 2) w) :: s.host := rfl

@[simp] theorem Response.ok_fault : Response.ok.fault = false := rfl
@[simp] theorem Response.ok_cause : Response.ok.cause = Cause.none := rfl

end Sys2Proof.Machine
end

