-- ==== Sys2Proof/Laws/Ops.lean ====
section
/-! SUPPORT. One lemma per shared operation that says everything it can answer: the parameter check, the correction, the
width check, the operand checks and the first-fault record. -/

namespace Sys2Proof.Machine

/-- The parameter check, as 00_scope.md section 3 writes it. -/
theorem configLegal_iff (c : Config) :
    configLegal c = true ↔
      1 ≤ c.M ∧ c.M ≤ 2 ^ c.W ∧ 1 ≤ c.W ∧ (∀ n, c.P = .bits n → 32 ≤ n ∧ c.W + 1 ≤ n) := by
  rcases c with ⟨M, W, _ | n⟩ <;> simp [configLegal, posWidthLegal, and_assoc]

/-- The width check, as rule R39 writes it. -/
theorem positionFits_iff (P : PosWidth) (p : Int) :
    positionFits P p = true ↔
      ∀ n, P = .bits n → -(2 : Int) ^ (n - 1) ≤ p ∧ p ≤ (2 : Int) ^ (n - 1) - 1 := by
  cases P <;> simp [positionFits]

/-- The three ends of the correction (rule R40). -/
theorem corr_cases (M : Nat) (delta : Int) :
    (2 * delta > M ∧ corr M delta = delta - M) ∨
    (2 * delta < -(M : Int) ∧ corr M delta = delta + M) ∨
    (2 * delta ≤ M ∧ -(M : Int) ≤ 2 * delta ∧ corr M delta = delta) := by
  unfold corr
  split
  · exact .inl ⟨‹_›, rfl⟩
  · split
    · exact .inr (.inl ⟨‹_›, rfl⟩)
    · exact .inr (.inr ⟨by omega, by omega, rfl⟩)

/-- No motion is no correction. -/
@[simp] theorem corr_zero (M : Nat) : corr M 0 = 0 := by
  rcases corr_cases M 0 with ⟨h, _⟩ | ⟨h, _⟩ | ⟨_, _, h⟩
  · omega
  · omega
  · exact h

@[simp] theorem rawInRange_iff (c : Config) (raw : Nat) : rawInRange c raw = true ↔ raw < c.M := by
  simp [rawInRange]

@[simp] theorem rawFits_iff (W raw : Nat) : rawFits W raw = true ↔ raw < 2 ^ W := by
  simp [rawFits]

/-- An operand that fits loses nothing as a register value. -/
theorem rawRegister_toNat {W raw : Nat} (h : raw < 2 ^ W) : (rawRegister W raw).toNat = raw := by
  simp [rawRegister, Nat.mod_eq_of_lt h]

/-- A fault already recorded stays (rule R56). -/
theorem recordFault_of_recorded {W : Nat} {st : StatusWord W} (h : statusFault st = true)
    (cause : Cause) (info : RawWord W) : recordFault st cause info = st := by
  simp [recordFault, h]

/-- The first fault since reset is recorded (rule R56). -/
theorem recordFault_of_clear {W : Nat} {st : StatusWord W} (h : statusFault st = false)
    (cause : Cause) (info : RawWord W) : recordFault st cause info = statusPack true cause.code info := by
  simp [recordFault, h]

/-- Power-up answers the reset state of a legal instance, or refuses (rule R64, 00_scope.md section 3). -/
theorem powerUp_cases (c : Config) :
    (configLegal c = true ∧ powerUp c = .next (State.init c)) ∨
    (configLegal c = false ∧ powerUp c = .refused .illegalConfiguration) := by
  cases h : configLegal c <;> simp [powerUp, h]

end Sys2Proof.Machine
end

