-- ==== Sys2Proof/Laws/PerInstr.lean ====
section
/-! SUPPORT. Statements made per command, about its syntax: the family `WordOf` says that the word of a command is the one
its row of the table gives, `code << W` with the raw field below it (rule R32). -/

namespace Sys2Proof.Laws.WordOf

/-- The word of the command is made of its row's code and its raw field, at every width. -/
def Statement : Instr → Prop
  | .nop => ∀ W, encode W .nop = makeWord 0b00#2 0#W
  | .sample raw => ∀ W, encode W (.sample raw) = makeWord 0b01#2 (BitVec.ofNat W raw)
  | .zero => ∀ W, encode W .zero = makeWord 0b10#2 0#W
  | .reserved raw => ∀ W, encode W (.reserved raw) = makeWord 0b11#2 (BitVec.ofNat W raw)

theorem nop : Statement .nop := fun _ => rfl

theorem sample (raw : Nat) : Statement (.sample raw) := fun _ => rfl

theorem zero : Statement .zero := fun _ => rfl

theorem reserved (raw : Nat) : Statement (.reserved raw) := fun _ => rfl

end Sys2Proof.Laws.WordOf
end

