-- ==== Sys2Proof/Laws/Step.lean ====
section
/-! SUPPORT. What each command, a transaction and a step can do, said once: later proofs take these apart and unfold none
of the meanings. -/

namespace Sys2Proof.Machine

/-- The three ends of a SAMPLE that answers `t` (rules R39, R58). -/
theorem exec_sample_cases {raw : Nat} {s t : State} (h : exec (.sample raw) s = .next t) :
    (raw < s.cfg.M ∧ positionFits s.cfg.P (s.newPosition raw) = true ∧
      t = ((s.writePosition (s.newPosition raw)).writeLastRaw raw).respondOk) ∨
    (raw < s.cfg.M ∧ positionFits s.cfg.P (s.newPosition raw) = false ∧
      t = s.raiseFault .positionOverflow (rawRegister s.cfg.W raw)) ∨
    (s.cfg.M ≤ raw ∧ t = s.raiseFault .preconditionViolation (rawRegister s.cfg.W raw)) := by
  simp only [exec, execSample, rawInRange_iff] at h
  split at h
  · split at h
    · exact .inl ⟨‹_›, ‹_›, by simpa using h.symm⟩
    · exact .inr (.inl ⟨‹_›, Bool.eq_false_of_not_eq_true ‹_›, by simpa using h.symm⟩)
  · exact .inr (.inr ⟨by omega, by simpa using h.symm⟩)

/-- What a command that answers `t` did: it responded, wrote the position, completed a SAMPLE, or raised a fault
(rules R39 to R43). -/
theorem exec_cases {i : Instr} {s t : State} (h : exec i s = .next t) :
    (i = .nop ∧ t = s.respondOk) ∨
    (i = .zero ∧ t = (s.writePosition 0).respondOk) ∨
    (∃ raw, i = .sample raw ∧ raw < s.cfg.M ∧ positionFits s.cfg.P (s.newPosition raw) = true ∧
      t = ((s.writePosition (s.newPosition raw)).writeLastRaw raw).respondOk) ∨
    (∃ raw cause, cause ≠ .none ∧ (i = .sample raw ∨ i = .reserved raw) ∧
      t = s.raiseFault cause (rawRegister s.cfg.W raw)) := by
  cases i with
  | nop => exact .inl ⟨rfl, by simpa [exec, execNop] using h.symm⟩
  | zero => exact .inr (.inl ⟨rfl, by simpa [exec, execZero] using h.symm⟩)
  | sample raw =>
    rcases exec_sample_cases h with ⟨hr, hf, rfl⟩ | ⟨_, _, rfl⟩ | ⟨_, rfl⟩
    · exact .inr (.inr (.inl ⟨raw, rfl, hr, hf, rfl⟩))
    · exact .inr (.inr (.inr ⟨raw, .positionOverflow, by simp, .inl rfl, rfl⟩))
    · exact .inr (.inr (.inr ⟨raw, .preconditionViolation, by simp, .inl rfl, rfl⟩))
  | reserved raw =>
    exact .inr (.inr (.inr ⟨raw, .illegalCommand, by simp, .inr rfl,
      by simpa [exec, execReserved] using h.symm⟩))

/-- What a transaction that answers `t` did (rule R38). -/
theorem transact_cases {s t : State} {tx : Transaction s.cfg.W} (h : transact s tx = .next t) :
    (tx.rst = true ∧ t = s.resetTracker) ∨ (tx.rst = false ∧ exec (decode tx.cw) s = .next t) := by
  unfold transact at h
  split at h
  · exact .inl ⟨‹_›, by simpa using h.symm⟩
  · exact .inr ⟨Bool.eq_false_of_not_eq_true ‹_›, h⟩

/-- With nothing issued there is no transaction to take. -/
theorem takeTransaction_nil {s : State} (hh : s.host = []) : s.takeTransaction = none := by
  simp [State.takeTransaction, hh]

/-- The transaction taken is the first one issued. -/
theorem takeTransaction_cons {s : State} {tx : Transaction s.cfg.W} {rest : List (Transaction s.cfg.W)}
    (hh : s.host = tx :: rest) : s.takeTransaction = some ⟨{ s with host := rest }, tx⟩ := by
  simp [State.takeTransaction, hh]

/-- A step with nothing issued leaves the state as it is. -/
theorem step_idle {s : State} (hc : configLegal s.cfg = true) (hh : s.host = []) : step s = .next s := by
  simp [step, hc, takeTransaction_nil hh]

/-- A step with a transaction issued is that transaction on the state whose stream begins after it. -/
theorem step_transaction {s : State} {tx : Transaction s.cfg.W} {rest : List (Transaction s.cfg.W)}
    (hc : configLegal s.cfg = true) (hh : s.host = tx :: rest) :
    step s = transact { s with host := rest } tx := by
  simp [step, hc, takeTransaction_cons hh]

/-- What a step that answers `t` did. -/
theorem step_cases {s t : State} (h : step s = .next t) :
    configLegal s.cfg = true ∧
    ((s.host = [] ∧ t = s) ∨
      ∃ tx rest, s.host = tx :: rest ∧ transact { s with host := rest } tx = .next t) := by
  by_cases hc : configLegal s.cfg = true
  · refine ⟨hc, ?_⟩
    cases hh : s.host with
    | nil => rw [step_idle hc hh] at h; exact .inl ⟨rfl, by simpa using h.symm⟩
    | cons tx rest => rw [step_transaction hc hh] at h; exact .inr ⟨tx, rest, rfl, h⟩
  · unfold step at h
    rw [if_neg hc] at h
    cases h

/-- A run of no step is the state itself. -/
@[simp] theorem run_zero (s : State) : Host.Core.run Sys2Proof.core 0 s = .next s := rfl

/-- A step and then a run is a run. -/
theorem run_of_step {k : Nat} {s u : State} (h : step s = .next u) :
    Host.Core.run Sys2Proof.core (k + 1) s = Host.Core.run Sys2Proof.core k u := by
  have hs : Sys2Proof.core.step s = .next u := h
  simp only [Host.Core.run, hs]

/-- A run begins with one step and goes on from its next state. -/
theorem run_succ {k : Nat} {s t : State} (h : Host.Core.run Sys2Proof.core (k + 1) s = .next t) :
    ∃ u, step s = .next u ∧ Host.Core.run Sys2Proof.core k u = .next t := by
  cases hs : step s with
  | next u => exact ⟨u, rfl, (run_of_step hs).symm.trans h⟩
  | fault r => cases r
  | refused r =>
    have hs' : Sys2Proof.core.step s = .refused r := hs
    simp [Host.Core.run, hs'] at h

/-- The states after a step and then `k` more. -/
theorem statesAfter_of_step {k : Nat} {s u : State} (h : step s = .next u) :
    statesAfter (k + 1) s = u :: statesAfter k u := by
  simp [statesAfter, h]

end Sys2Proof.Machine
end

