-- ==== Sys2Proof/Tests/Slice0.lean ====
section
/-! SUPPORT. The model's own tests. Expected values are those of 95_test_vectors.md (V and P numbers), of the words written
out bit by bit from rule R32, and hand calculation from the rules. The witnesses show states that meet the hypotheses of the
statements of Certificates/Slice0/Obligations.lean. -/

namespace Sys2Proof.Tests

open Sys2Proof Sys2Proof.Machine

/-! ## Helpers -/

/-- A configuration with a 64-bit position. -/
def conf (M W : Nat) : Config := { M := M, W := W, P := .bits 64 }

/-- The default configuration with `P = 32` (V27, V28). -/
def conf32 : Config := { M := 65536, W := 16, P := .bits 32 }

/-- An unbounded position. -/
def confInf : Config := { M := 65536, W := 16, P := .inf }

/-- A state with `last_raw = l`, `true_position = p` and the packed STATUS value `st`. -/
def at_ (c : Config) (l : Nat) (p : Int) (st : Nat) : State :=
  { State.init c with lastRaw := BitVec.ofNat c.W l, truePosition := p, status := BitVec.ofNat (c.W + 3) st }

/-- The same state with one command word coming. -/
def atWord (c : Config) (l : Nat) (p : Int) (st w : Nat) : State := (at_ c l p st).withFetchWord 24 w

/-- A step ended in a state with this `last_raw`, `true_position`, packed STATUS and response. -/
def ended (o : Host.Outcome State Fault Refusal) (l : Nat) (p : Int) (st : Nat) (f : Nat) (c : Nat) : Bool :=
  match o with
  | .next t => decide (t.lastRaw.toNat = l ∧ t.truePosition = p ∧ t.statusOut.toNat = st ∧
      t.respFault.toNat = f ∧ t.respCause.toNat = c)
  | .fault _ => false
  | .refused _ => false

/-! ## Well-formedness and parameters -/

theorem test_sample_operand_too_wide : (Instr.sample 65536).wellFormed 16 = false := by decide

theorem test_reserved_operand_too_wide : (Instr.reserved 65536).wellFormed 16 = false := by decide

theorem test_widest_operands : (Instr.sample 65535).wellFormed 16 = true ∧ (Instr.reserved 7).wellFormed 3 = true := by
  decide

/-- Each constraint of 00_scope.md section 3, broken alone. -/
theorem test_broken_parameters :
    configLegal { M := 0, W := 16, P := .bits 64 } = false ∧
    configLegal { M := 65537, W := 16, P := .bits 64 } = false ∧
    configLegal { M := 1, W := 0, P := .bits 64 } = false ∧
    configLegal { M := 65536, W := 16, P := .bits 31 } = false ∧
    configLegal { M := 65536, W := 40, P := .bits 40 } = false := by decide

/-- The parameters of the vectors are legal: M = 1, 2, 3, 5, 60000 and 65536. -/
theorem test_legal_parameters :
    configLegal (conf 1 1) = true ∧ configLegal (conf 2 1) = true ∧ configLegal (conf 3 2) = true ∧
    configLegal (conf 5 3) = true ∧ configLegal (conf 60000 16) = true ∧ configLegal conf32 = true ∧
    configLegal confInf = true ∧ configLegal { M := 65536, W := 40, P := .bits 41 } = true := by decide

/-! ## Decoding: words written out from rules R30 and R32 -/

theorem test_decode_nop : decode (W := 16) 0b00_1111111111111111#18 = .nop := by decide

theorem test_decode_sample : decode (W := 16) 0b01_1110101001100101#18 = .sample 60005 := by decide

theorem test_decode_zero : decode (W := 16) 0b10_1010101111001101#18 = .zero := by decide

theorem test_decode_reserved : decode (W := 16) 0b11_1010101111001101#18 = .reserved 0xABCD := by decide

/-- V19, V23a, V25a: other widths. -/
theorem test_decode_other_widths :
    decode (W := 2) 0b0110#4 = .sample 2 ∧ decode (W := 1) 0b011#3 = .sample 1 ∧
    decode (W := 3) 0b01011#5 = .sample 3 := by decide

theorem test_encode_words :
    encode 16 (.sample 5) = 0x10005#18 ∧ encode 16 .zero = 0x20000#18 ∧ encode 16 .nop = 0x00000#18 ∧
    encode 16 (.reserved 0) = 0x30000#18 := by decide

theorem test_no_word_of_19_bits : decodeTableWord 24 0x40000 = none := by decide

/-! ## The correction: V1, V2, V4, V8 to V25, V29, V30 -/

theorem test_corr_default_modulus :
    corr 65536 (-65525) = 11 ∧ corr 65536 65525 = -11 ∧ corr 65536 32768 = 32768 ∧
    corr 65536 (-32768) = -32768 ∧ corr 65536 32769 = -32767 ∧ corr 65536 (-32769) = 32767 ∧
    corr 65536 65535 = -1 ∧ corr 65536 (-65535) = 1 ∧ corr 65536 (-59999) = 5537 ∧
    corr 65536 40000 = -25536 := by decide

theorem test_corr_small_moduli :
    corr 3 2 = -1 ∧ corr 3 (-2) = 1 ∧ corr 3 1 = 1 ∧ corr 2 1 = 1 ∧ corr 2 (-1) = -1 ∧
    corr 5 3 = -2 ∧ corr 5 2 = 2 ∧ corr 5 (-3) = 2 := by decide

/-! ## One step of each command -/

/-- V1: `l = 65530`, SAMPLE 5 gives +11. -/
theorem test_sample_overflow_correction :
    ended (step (atWord (conf 65536 16) 65530 100 0 0x10005)) 5 111 0 0 0 = true := by decide

/-- V22 and V27a, V27b, V28: the faults of SAMPLE, and the largest position that fits. -/
theorem test_sample_faults :
    ended (step (atWord (conf 3 2) 1 9 0 0b0111)) 1 9 0x1B 1 1 = true ∧
    ended (step (atWord conf32 0 2147483647 0 0x10001)) 0 2147483647 0xF 1 3 = true ∧
    ended (step (atWord conf32 0 2147483646 0 0x10001)) 1 2147483647 0 0 0 = true ∧
    ended (step (atWord conf32 1 (-2147483648) 0 0x10000)) 1 (-2147483648) 0x7 1 3 = true := by decide

/-- V33 and V34: ZERO keeps `last_raw` and a recorded fault, and ignores its raw field. -/
theorem test_zero :
    ended (step (atWord (conf 60000 16) 5 5 0x7532B 0x20000)) 5 0 0x7532B 0 0 = true ∧
    ended (step (atWord (conf 65536 16) 7 123 0 0x2ABCD)) 7 0 0 0 0 = true := by decide

/-- V36: NOP ignores its raw field. -/
theorem test_nop : ended (step (atWord (conf 65536 16) 9 (-4) 0 0x0FFFF)) 9 (-4) 0 0 0 = true := by decide

/-- V37 and V38: the reserved code, first fault and later fault. -/
theorem test_reserved :
    ended (step (atWord (conf 65536 16) 0 0 0 0x30000)) 0 0 0x5 1 2 = true ∧
    ended (step (atWord (conf 60000 16) 3 4 0x75303 0x3ABCD)) 3 4 0x75303 1 2 = true := by decide

/-- V39: a reset transaction, the word beside it ignored. -/
theorem test_reset_transaction :
    ended (step { at_ (conf 60000 16) 40010 10 0x7532B with host := [{ rst := true, cw := 0x10005#18 }] })
      0 0 0 0 0 = true := by decide

/-- Nothing issued: the state stays (log entry 4). -/
theorem test_idle_step : step State.reset = .next State.reset := rfl

/-- V1 and V4 at the port, from `p = 0`. -/
theorem test_pos_out :
    (at_ (conf 65536 16) 5 11 0).posOut = .vector 64 0x000000000000000B#64 ∧
    (at_ (conf 65536 16) 65530 (-11) 0).posOut = .vector 64 0xFFFFFFFFFFFFFFF5#64 ∧
    (at_ confInf 65530 (-11) 0).posOut = .integer (-11) := by decide

/-- The packed values of 95_test_vectors.md: INFO = 0xEA65, CAUSE = 1, FAULT = 1 is 0x7532B. -/
theorem test_status_pack : (statusPack (W := 16) true 1#2 0xEA65#16).toNat = 0x7532B := by decide

/-! ## Assembly (rule R37) -/

/-- `a: sample 0x1E ; c`. -/
theorem test_parse_sample :
    parseLine ['a', ':', ' ', 's', 'a', 'M', 'p', 'l', 'e', ' ', '0', 'x', '1', 'E', ' ', ';', 'c'] =
      .ok (some (.sample 30)) := by decide

theorem test_parse_others :
    parseLine ['Z', 'e', 'r', 'o'] = .ok (some .zero) ∧ parseLine [' ', ';', 'x'] = .ok none ∧
    parseLine ['r', 'e', 's', 'e', 't'] = .ok (some .reset) ∧
    parseLine ['.', 'w', 'o', 'r', 'd', ' ', '1', '0'] = .ok (some (.word 10)) ∧
    parseLine ['S', 'A', 'M', 'P', 'L', 'E'] = .error .badCommand := by decide

/-- SAMPLE 5 is 0x10005. -/
theorem test_assemble_sample : assemble 16 (.sample 5) = .ok { rst := false, cw := 0x10005#18 } := by decide

/-! ## Witnesses: the hypotheses of the statements are met -/

theorem witness_invariant : TrackerInv (atWord (conf 65536 16) 65535 100 0 0x10005) where
  legal := by decide
  lastRaw := by decide
  position := by intro n h; cases h; decide
  status := by decide
  response := by decide
  recorded := by decide

theorem witness_invariant_unbounded : TrackerInv (at_ confInf 0 100 0) where
  legal := by decide
  lastRaw := by decide
  position := by intro n h; cases h
  status := by decide
  response := by decide
  recorded := by decide

/-- At the top of a 32-bit range, where a SAMPLE overflows. -/
theorem witness_invariant_at_the_end : TrackerInv (at_ conf32 0 2147483647 0) where
  legal := by decide
  lastRaw := by decide
  position := by intro n h; cases h; decide
  status := by decide
  response := by decide
  recorded := by decide

/-- DecodeFollowsTheCodes: a word of each code, at the ends of the raw field. -/
theorem witness_codes :
    (0x0FFFF#18 : CommandWord 16).toNat / 2 ^ 16 = 0 ∧ (0x10000#18 : CommandWord 16).toNat / 2 ^ 16 = 1 ∧
    (0x1FFFF#18 : CommandWord 16).toNat / 2 ^ 16 = 1 ∧ (0x20000#18 : CommandWord 16).toNat / 2 ^ 16 = 2 ∧
    (0x3FFFF#18 : CommandWord 16).toNat / 2 ^ 16 = 3 := by decide

/-- DecodeOfEncodeIsTheCommand, EncodedWordIsCodeAndRaw, AssemblerEmitsTheCommands: operands at the ends of their range. -/
theorem witness_operands :
    (Instr.sample 65535).wellFormed 16 = true ∧ (65535 < 2 ^ 16) ∧ (2 ^ 16 ≤ 65536) ∧
    (262143 < 2 ^ (16 + 2)) ∧ (2 ^ (16 + 2) ≤ 262144) := by decide

/-- EncodeOfDecodeIsTheWord: words of codes 1 and 3. -/
theorem witness_unignored_raw :
    cmdField (W := 16) 0x10005#18 = 0b01#2 ∧ cmdField (W := 16) 0x3FFFF#18 = 0b11#2 := by decide

/-- OnlyTheReservedCodeIsIllegal. -/
theorem witness_illegal_word :
    (∃ t, exec (decode (W := 16) 0x30000#18) (at_ (conf 65536 16) 1 2 0) = .next t) ∧
    (0x30000#18 : CommandWord 16).toNat / 2 ^ 16 = 3 := ⟨⟨_, rfl⟩, by decide⟩

/-- IllegalParametersAreRefused: both clauses. -/
theorem witness_parameters :
    step (at_ { M := 0, W := 16, P := .bits 64 } 0 0 0) = .refused .illegalConfiguration ∧
    ∃ t, step (at_ (conf 65536 16) 0 0 0) = .next t := ⟨by rfl, ⟨_, rfl⟩⟩

/-- ParametersNeverChange, LastRawWriters, TruePositionWriters, StatusInvariantAndFirstFault, StepKeepsTheInvariant,
PositionGrowsByHalfAModulus: a step that answers, and a run of one step. -/
theorem witness_step : (∃ t, step (atWord (conf 65536 16) 65535 100 0 0x10005) = .next t) ∧
    ∃ t, Host.Core.run Sys2Proof.core 1 (atWord (conf 65536 16) 65535 100 0 0x10005) = .next t :=
  ⟨⟨_, rfl⟩, ⟨_, rfl⟩⟩

/-- StatusInvariantAndFirstFault: a recorded fault, a NOP coming; and a reset coming, after which it is cleared. -/
theorem witness_recorded_fault :
    statusFault (atWord (conf 60000 16) 5 5 0x7532B 0).status = true ∧
    statusCause (atWord (conf 60000 16) 5 5 0x7532B 0).status ≠ 0#2 ∧
    ended (step (atWord (conf 60000 16) 5 5 0x7532B 0)) 5 5 0x7532B 0 0 = true ∧
    ended (step { at_ (conf 60000 16) 5 5 0x7532B with host := [Transaction.reset 16] }) 0 0 0 0 0 = true := by
  decide

/-- ResetTransactionResets, StepRunsTheDecodedCommand, ChecksHaveOneOrder: a legal state with a transaction coming. -/
theorem witness_reset_coming :
    configLegal (conf 65536 16) = true ∧
    ({ at_ (conf 65536 16) 5 5 0 with host := [{ rst := true, cw := 0x10005#18 }] } : State).host =
      [{ rst := true, cw := 0x10005#18 }] ∧ (at_ (conf 65536 16) 5 5 0).host = [] := by decide

/-- SampleFollowsTheRule: in range and fitting at the last position, out of range at the first value, and not fitting. -/
theorem witness_sample_ends :
    (65535 < (conf 65536 16).M) ∧ (conf 60000 16).M ≤ 60000 ∧ (59999 < (conf 60000 16).M) ∧
    positionFits conf32.P ((at_ conf32 0 2147483646 0).newPosition 1) = true ∧
    positionFits conf32.P ((at_ conf32 0 2147483647 0).newPosition 1) = false := by decide

/-- FramesOfTheCommands, PreconditionViolationExactly: every command answers; SAMPLE with and without a fault. -/
theorem witness_answers :
    (∃ t, exec .nop (at_ (conf 3 2) 1 9 0) = .next t) ∧ (∃ t, exec .zero (at_ (conf 3 2) 1 9 0) = .next t) ∧
    (∃ t, exec (.sample 2) (at_ (conf 3 2) 1 9 0) = .next t ∧ t.resp.fault = false) ∧
    (∃ t, exec (.sample 3) (at_ (conf 3 2) 1 9 0) = .next t ∧ t.resp.fault = true) ∧
    (∃ t, exec (.reserved 3) (at_ (conf 3 2) 1 9 0) = .next t) :=
  ⟨⟨_, rfl⟩, ⟨_, rfl⟩, ⟨_, rfl, rfl⟩, ⟨_, rfl, rfl⟩, ⟨_, rfl⟩⟩

/-- PreconditionViolationExactly: `M = 2^W` and an operand the word can carry. -/
theorem witness_full_modulus :
    (conf 65536 16).M = 2 ^ (conf 65536 16).W ∧ (Instr.sample 65535).wellFormed 16 = true := by decide

/-- OverflowOnlyNearTheEnds. -/
theorem witness_overflow : ∃ t, exec (.sample 1) (at_ conf32 0 2147483647 0) = .next t ∧
    t.resp.cause = .positionOverflow := ⟨_, rfl, by decide⟩

/-- FaultsArePreciseAndFirstIsKept: a faulting transaction. -/
theorem witness_faulting_step : configLegal (conf 3 2) = true ∧
    ∃ t, step (atWord (conf 3 2) 1 9 0 0b0111) = .next t ∧ t.resp.fault = true := ⟨by decide, _, rfl, rfl⟩

/-- ChecksHaveOneOrder: one word for each clause. -/
theorem witness_checks :
    (∃ t, step (atWord (conf 3 2) 1 9 0 0b1100) = .next t ∧ t.resp.cause = .illegalCommand) ∧
    (∃ t, step (atWord (conf 3 2) 1 9 0 0b1011) = .next t ∧ t.resp = .ok) ∧
    (∃ t, step (atWord (conf 3 2) 1 9 0 0b0111) = .next t ∧ t.resp.cause = .preconditionViolation) ∧
    (∃ t, step (atWord conf32 0 2147483647 0 0x10001) = .next t ∧ t.resp.cause = .positionOverflow) ∧
    (∃ t, step (atWord (conf 3 2) 1 9 0 0b0110) = .next t ∧ t.resp = .ok) :=
  ⟨⟨_, rfl, by decide⟩, ⟨_, rfl, by decide⟩, ⟨_, rfl, by decide⟩, ⟨_, rfl, by decide⟩, ⟨_, rfl, by decide⟩⟩

/-- FaultedRunIsRecorded: a run of one faulting transaction and one of none. -/
theorem witness_run_without_reset :
    1 ≤ (atWord (conf 3 2) 1 9 0 0b0111).host.length ∧
    statusFault (atWord (conf 3 2) 1 9 0 0b0111).status = false ∧
    (∀ tx ∈ (atWord (conf 3 2) 1 9 0 0b0111).host.take 1, tx.rst = false) ∧
    faultedWithin 1 (atWord (conf 3 2) 1 9 0 0b0111) = true ∧
    ∃ t, Host.Core.run Sys2Proof.core 1 (atWord (conf 3 2) 1 9 0 0b0111) = .next t :=
  ⟨by decide, by decide, by decide, by decide, _, rfl⟩

/-- PosOutShowsThePosition: both kinds of width, and a ZERO that answers at each (the states are those of
witness_invariant and witness_invariant_unbounded). -/
theorem witness_pos_widths : (atWord (conf 65536 16) 65535 100 0 0x10005).cfg.P = .bits 64 ∧
    (at_ confInf 0 100 0).cfg.P = .inf ∧
    (∃ t, exec .zero (atWord (conf 65536 16) 65535 100 0 0x10005) = .next t) ∧
    ∃ t, exec .zero (at_ confInf 0 100 0) = .next t := ⟨rfl, rfl, ⟨_, rfl⟩, _, rfl⟩

/-- PositionMovesByAtMostHalfAModulus: one SAMPLE coming, no reset and no ZERO (the invariant is witness_invariant's, the
run witness_step's). -/
theorem witness_no_reset_no_zero : ∀ tx ∈ (atWord (conf 65536 16) 65535 100 0 0x10005).host.take 1,
    tx.rst = false ∧ decode tx.cw ≠ .zero := by decide

/-- ReachableStatesMeetTheInvariant, RunTakesEveryTransaction, CongruenceOfPositionAndRaw: a run from reset, without ZERO. -/
theorem witness_run_from_reset :
    configLegal (conf 65536 16) = true ∧
    (∀ tx ∈ [Transaction.command (encode (conf 65536 16).W (.sample 5))], tx.rst = true ∨ decode tx.cw ≠ .zero) ∧
    ∃ t, Host.Core.run Sys2Proof.core 1
      (State.loaded (conf 65536 16) [Transaction.command (encode (conf 65536 16).W (.sample 5))]) = .next t :=
  ⟨by decide, by decide, _, rfl⟩

/-- EveryMergeIsARun: two contexts of one transaction each, the second one's first. -/
theorem witness_merge (a b : Transaction 16) : Merges [[a], [b]] [b, a] :=
  .pick _ 1 b [] _ rfl (.pick _ 0 a [] _ rfl (.done _ (by simp)))

/-- InstancesAreIndependent: the second of two instances steps. -/
theorem witness_two_instances :
    ∃ sys, System.stepInstance [at_ (conf 3 2) 1 9 0, atWord (conf 5 3) 0 0 0 0b01011] 1 = .next sys ∧
      ∃ s, [at_ (conf 3 2) 1 9 0, atWord (conf 5 3) 0 0 0 0b01011][1]? = some s := ⟨_, rfl, _, rfl⟩

/-- CorrectionThresholds and CorrectionRange: each branch at its first value, the ties, and an odd modulus. -/
theorem witness_deltas :
    ((1 : Nat) ≤ 65536) ∧ 2 * (32769 : Int) > 65536 ∧ 2 * (-32769 : Int) < -65536 ∧ -65536 ≤ 2 * (-32768 : Int) ∧
    2 * (32768 : Int) ≤ 65536 ∧ -(65536 : Int) < -65535 ∧ (65535 : Int) < 65536 ∧
    2 * corr 65536 32768 = 65536 ∧ 2 * corr 65536 (-32768) = -65536 ∧ 5 % 2 = 1 := by decide

/-- CongruenceOfPositionAndRaw: reset, ZERO, SAMPLE and another command coming (the invariant holds as in
witness_invariant). -/
theorem witness_transactions :
    decode (W := 16) 0x20000#18 = .zero ∧ decode (W := 16) 0x10005#18 = .sample 5 ∧
    decode (W := 16) 0x00000#18 ≠ .zero ∧
    ∃ t, step (atWord (conf 65536 16) 65535 100 0 0x10005) = .next t ∧ t.resp.fault = false :=
  ⟨by decide, by decide, by decide, _, rfl, rfl⟩

/-- UnwrappingIsCorrectWithinContract: within the contract (V1), the two ties of V31, and V30 beyond it. -/
theorem witness_displacements :
    ((5 : Int) % 65536 = (65530 + 11) % 65536 ∧ 2 * |(11 : Int)| < 65536) ∧
    ((32868 : Int) % 65536 = (100 + 32768) % 65536 ∧ 2 * |(32768 : Int)| = 65536) ∧
    ((7232 : Int) % 65536 = (40000 + 32768) % 65536) ∧
    ((40000 : Int) % 65536 = (0 + 40000) % 65536 ∧ (65536 : Int) < 2 * |(40000 : Int)|) ∧
    (2 * |corr 65536 (32868 - 100)| = 65536) := by decide

/-- DirectionReversalIsExact: V6, b = 40000 from `last_raw` = 1000 and back. -/
theorem witness_reversal :
    ∃ t u, exec (.sample 40000) (at_ (conf 65536 16) 1000 0 0) = .next t ∧ t.resp.fault = false ∧
      exec (.sample (at_ (conf 65536 16) 1000 0 0).lastRaw.toNat) t = .next u ∧ u.resp.fault = false :=
  ⟨_, _, rfl, rfl, rfl, rfl⟩

/-- RepeatedReadChangesNothing: a completing SAMPLE in a legal state (V5). -/
theorem witness_completing_sample : configLegal (conf 65536 16) = true ∧
    ∃ t, exec (.sample 1234) (State.init (conf 65536 16)) = .next t ∧ t.resp.fault = false :=
  ⟨by decide, _, rfl, rfl⟩

/-- PositionIsTheSumOfDeltas: the first two readings of V7, a small raw step each, and a ZERO that answers. -/
theorem witness_readings :
    configLegal (conf 65536 16) = true ∧
    (∀ r ∈ [100, 30000], r < 2 ^ 16) ∧
    faultedWithin 2 (State.loaded (conf 65536 16)
      ([100, 30000].map fun r => Transaction.command (encode 16 (.sample r)))) = false ∧
    (∃ z, exec .zero (State.init (conf 65536 16)) = .next z) ∧
    ∃ t, Host.Core.run Sys2Proof.core 2 (State.loaded (conf 65536 16)
      ([100, 30000].map fun r => Transaction.command (encode 16 (.sample r)))) = .next t :=
  ⟨by decide, by decide, by decide, ⟨_, rfl⟩, _, rfl⟩

theorem witness_small_steps : smallRawSteps 65536 0 [100, 30000] := by
  simp [smallRawSteps]

/-- NoHazardAcrossZero and FirstSampleAndPriming: an operand in range, and a ZERO that answers. -/
theorem witness_in_range : (65535 < (conf 65536 16).M) ∧
    ∃ z, exec .zero (atWord (conf 65536 16) 65535 100 0 0x10005) = .next z := ⟨by decide, _, rfl⟩

/-- PositionFollowsTheShaft: a shaft at tick 65530 turning 11 and back 20, within the contract. -/
theorem witness_shaft_invariant :
    TrackerInv { at_ (conf 65536 16) 65530 0 0 with host := shaftSamples (conf 65536 16) 65530 [11, -20] } where
  legal := by decide
  lastRaw := by decide
  position := by intro n h; cases h; decide
  status := by decide
  response := by decide
  recorded := by decide

theorem witness_shaft :
    (at_ (conf 65536 16) 65530 0 0).lastRaw.toNat = counterReading 65536 65530 ∧
    (∀ t ∈ ([11, -20] : List Int), samplingContract 65536 t) ∧
    ∀ k n, (conf 65536 16).P = .bits n →
      -(2 : Int) ^ (n - 1) ≤ 0 + (([11, -20] : List Int).take k).sum ∧
      0 + (([11, -20] : List Int).take k).sum ≤ (2 : Int) ^ (n - 1) - 1 := by
  refine ⟨by decide, ?_, ?_⟩
  · intro t ht
    simp only [List.mem_cons, List.not_mem_nil, or_false] at ht
    rcases ht with rfl | rfl <;> decide
  · intro k n h
    cases h
    rcases k with _ | _ | k <;> simp

/-- AliasingGivesNoSignal: V30 at `P = INF`, from the state of witness_invariant_unbounded. -/
theorem witness_aliasing :
    (at_ confInf 0 100 0).lastRaw.toNat = counterReading 65536 0 ∧ (65536 : Int) < 2 * |(40000 : Int)| ∧
    ∃ t, exec (.sample (counterReading 65536 (0 + 40000))) (at_ confInf 0 100 0) = .next t :=
  ⟨by decide, by decide, _, rfl⟩

/-- AliasingGivesNoSignal: V30 at `P = 64`, where the new position fits. -/
theorem witness_aliasing_finite :
    TrackerInv (State.init (conf 65536 16)) ∧
    (State.init (conf 65536 16)).lastRaw.toNat = counterReading 65536 0 ∧
    positionFits (conf 65536 16).P ((State.init (conf 65536 16)).newPosition (counterReading 65536 (0 + 40000))) = true ∧
    ∃ t, exec (.sample (counterReading 65536 (0 + 40000))) (State.init (conf 65536 16)) = .next t :=
  ⟨⟨by decide, by decide, by intro n h; cases h; decide, by decide, by decide, by decide⟩, by decide, by decide, _, rfl⟩

/-- LargerModulusIsUndetected: V29's period 60000 at its last reading before the wrap, and at 0 for the way back; and the
smallest period and the largest one below `M`. -/
theorem witness_larger_modulus :
    TrackerInv (at_ (conf 65536 16) 59999 0 0) ∧ 60000 < (conf 65536 16).M ∧
    (at_ (conf 65536 16) 59999 0 0).lastRaw.toNat = 60000 - 1 ∧
    positionFits (conf 65536 16).P ((at_ (conf 65536 16) 59999 0 0).newPosition 0) = true ∧
    (State.init (conf 65536 16)).lastRaw.toNat = 0 ∧
    positionFits (conf 65536 16).P ((State.init (conf 65536 16)).newPosition (60000 - 1)) = true ∧
    (1 < (conf 65536 16).M ∧ (State.init (conf 65536 16)).lastRaw.toNat = 1 - 1) ∧
    (65535 < (conf 65536 16).M ∧ (at_ (conf 65536 16) 65534 0 0).lastRaw.toNat = 65535 - 1) :=
  ⟨⟨by decide, by decide, by intro n h; cases h; decide, by decide, by decide, by decide⟩, by decide, by decide,
    by decide, by decide, by decide, by decide, by decide⟩

/-- LargerModulusExample: V29. -/
theorem witness_misconfigured :
    (at_ Config.standard 59999 0 0).lastRaw.toNat = 59999 ∧ |(at_ Config.standard 59999 0 0).truePosition| < 2 ^ 62 ∧
    ∃ t, exec (.sample 0) (at_ Config.standard 59999 0 0) = .next t := ⟨by decide, by decide, _, rfl⟩

end Sys2Proof.Tests
end

section
/-! PROOFS. The statements of 00_scope.md section 3: which parameters have runs (rules R2 to R4), and the independence of
the instances of a system (rule R5). The lemmas say once when a step answers and what a step of a system did. -/

namespace Sys2Proof.Machine

/-! ## When a step answers -/

/-- Every command answers a next state, from every state (rules R57, R63). -/
theorem exec_answers (i : Instr) (s : State) : ∃ t, exec i s = .next t := by
  cases i with
  | nop => exact ⟨_, rfl⟩
  | zero => exact ⟨_, rfl⟩
  | reserved raw => exact ⟨_, rfl⟩
  | sample raw =>
    simp only [exec, execSample]
    split
    · split
      · exact ⟨_, rfl⟩
      · exact ⟨_, rfl⟩
    · exact ⟨_, rfl⟩

/-- Every transaction answers a next state, from every state (rules R38, R63). -/
theorem transact_answers (s : State) (tx : Transaction s.cfg.W) : ∃ t, transact s tx = .next t := by
  unfold transact
  split
  · exact ⟨_, rfl⟩
  · exact exec_answers _ s

/-- An instance with legal parameters answers every step. -/
theorem step_answers {s : State} (hc : configLegal s.cfg = true) : ∃ t, step s = .next t := by
  cases hh : s.host with
  | nil => exact ⟨s, step_idle hc hh⟩
  | cons tx rest =>
    rw [step_transaction hc hh]
    exact transact_answers { s with host := rest } tx

/-- Illegal parameters have no step (00_scope.md section 3, I13). -/
theorem step_of_illegal {s : State} (hc : ¬ configLegal s.cfg = true) :
    step s = .refused .illegalConfiguration := if_neg hc

/-- Illegal parameters have no power-up (00_scope.md section 3, I13). -/
theorem powerUp_of_illegal {c : Config} (hc : ¬ configLegal c = true) :
    powerUp c = .refused .illegalConfiguration := by
  simpa [hc] using powerUp_cases c

/-- Power-up of a legal instance answers its reset state (rule R64). -/
theorem powerUp_of_legal {c : Config} (hc : configLegal c = true) : powerUp c = .next (State.init c) := by
  simpa [hc] using powerUp_cases c

/-- The constraint on `P` by its two kinds, as rule R4 lists them. -/
theorem posWidth_constraint_iff (P : PosWidth) (W : Nat) :
    (P = .inf ∨ ∃ n, P = .bits n ∧ 32 ≤ n ∧ W + 1 ≤ n) ↔ ∀ n, P = .bits n → 32 ≤ n ∧ W + 1 ≤ n := by
  cases P <;> simp

/-- Settles O11: the constraints are the parameter check, which decides whether a step and power-up answer. -/
theorem illegalParametersAreRefused : Obligations.IllegalParametersAreRefused := by
  intro s
  simp only [posWidth_constraint_iff, ← configLegal_iff]
  exact ⟨fun hc => ⟨step_of_illegal hc, powerUp_of_illegal hc⟩,
    fun hc => ⟨step_answers hc, powerUp_of_legal hc⟩⟩

/-! ## What a step of a system did -/

/-- A step of instance `k` that answers `sys'` replaced that instance's state by its own next state; where `k` names no
instance, the system stayed as it was. -/
theorem System.stepInstance_cases {sys sys' : System} {k : Nat} (h : System.stepInstance sys k = .next sys') :
    (sys[k]? = none ∧ sys' = sys) ∨ ∃ s t, sys[k]? = some s ∧ step s = .next t ∧ sys' = sys.set k t := by
  induction sys generalizing k sys' with
  | nil => exact .inl ⟨rfl, by simpa [System.stepInstance] using h.symm⟩
  | cons s rest ih =>
    cases k with
    | zero =>
      cases hs : step s with
      | next t => exact .inr ⟨s, t, rfl, hs, by simpa [System.stepInstance, hs] using h.symm⟩
      | fault r => cases r
      | refused r => simp [System.stepInstance, hs] at h
    | succ k =>
      cases hr : System.stepInstance rest k with
      | next rest' =>
        obtain rfl : sys' = s :: rest' := by simpa [System.stepInstance, hr] using h.symm
        rcases ih hr with ⟨hk, rfl⟩ | ⟨u, t, hk, hu, rfl⟩
        · exact .inl ⟨hk, rfl⟩
        · exact .inr ⟨u, t, hk, hu, rfl⟩
      | fault r => cases r
      | refused r => simp [System.stepInstance, hr] at h

/-- Settles O38: a step of a system sets the state of one instance to that instance's own next state. -/
theorem instancesAreIndependent : Obligations.InstancesAreIndependent := by
  intro sys sys' k h
  rcases System.stepInstance_cases h with ⟨hk, rfl⟩ | ⟨s, t, hk, hs, rfl⟩
  · exact ⟨rfl, fun _ _ => rfl, fun s hs => by simp [hk] at hs⟩
  · refine ⟨List.length_set, fun j hj => List.getElem?_set_ne hj.symm, fun s' hs' => ?_⟩
    obtain rfl : s = s' := Option.some.inj (hk.symm.trans hs')
    have hlt : k < sys.length := (List.getElem?_eq_some_iff.mp hk).1
    exact ⟨t, List.getElem?_set_self hlt, hs⟩

end Sys2Proof.Machine
end

section
/-! PROOFS. The statements of 10_state.md: the layout of STATUS and its invariant (rules R13, R14), which transactions
write which register (rules R10 to R12), and the invariant of rule R17 with its reset state (rule R16). One relation
lists what a step can do; from it come the writers of each register, and from these the invariant, clause by clause. -/

namespace Sys2Proof.Machine

/-! ## The layout of STATUS -/

/-- An appended bit vector as a number: the left part counts in units of the right part's size. -/
theorem toNat_append_eq_add {m n : Nat} (x : BitVec m) (y : BitVec n) :
    (x ++ y).toNat = x.toNat * 2 ^ n + y.toNat := by
  rw [BitVec.toNat_append, ← Nat.shiftLeft_add_eq_or_of_lt y.isLt, Nat.shiftLeft_eq]

theorem statusPack_toNat {W : Nat} (f : Bool) (c : Code) (i : RawWord W) :
    (statusPack f c i).toNat = f.toNat + 2 * c.toNat + 8 * i.toNat := by
  simp only [statusPack, toNat_append_eq_add, BitVec.toNat_ofBool]
  omega

@[simp] theorem statusFault_statusPack {W : Nat} (f : Bool) (c : Code) (i : RawWord W) :
    statusFault (statusPack f c i) = f := by
  rw [statusPack, statusFault, BitVec.getLsbD_append]
  simp

@[simp] theorem statusCause_statusPack {W : Nat} (f : Bool) (c : Code) (i : RawWord W) :
    statusCause (statusPack f c i) = c := by
  rw [statusPack, statusCause, BitVec.extractLsb'_append_eq_of_le (by omega)]
  exact BitVec.extractLsb'_append_eq_right

@[simp] theorem statusInfo_statusPack {W : Nat} (f : Bool) (c : Code) (i : RawWord W) :
    statusInfo (statusPack f c i) = i := by
  rw [statusPack, statusInfo, BitVec.extractLsb'_append_eq_of_le (by omega)]
  exact BitVec.extractLsb'_append_eq_left

/-- The three fields take up the whole register. -/
theorem statusPack_of_fields {W : Nat} (st : StatusWord W) :
    statusPack (statusFault st) (statusCause st) (statusInfo st) = st := by
  ext k hk
  simp only [statusPack, statusFault, statusCause, statusInfo, BitVec.getElem_append, BitVec.getElem_extractLsb',
    BitVec.getElem_ofBool]
  split
  · simp [show k = 0 by omega]
  · split
    · rw [show 1 + (k - 1) = k by omega, BitVec.getLsbD_eq_getElem]
    · rw [show 3 + (k - 1 - 2) = k by omega, BitVec.getLsbD_eq_getElem]

/-- Settles O26: the word of three fields as a number, its fields, and the word of a register's own fields. -/
theorem statusLayout : Obligations.StatusLayout := fun _ =>
  ⟨fun f c i => ⟨statusPack_toNat f c i, statusFault_statusPack f c i, statusCause_statusPack f c i,
    statusInfo_statusPack f c i⟩, statusPack_of_fields⟩

/-! ## The STATUS invariant -/

@[simp] theorem statusFault_zero {W : Nat} : statusFault (0#(W + 3) : StatusWord W) = false := by
  simp [statusFault]

@[simp] theorem statusCause_zero {W : Nat} : statusCause (0#(W + 3) : StatusWord W) = 0#2 := by
  simp [statusCause]

@[simp] theorem statusInfo_zero {W : Nat} : statusInfo (0#(W + 3) : StatusWord W) = 0#W := by
  simp [statusInfo]

/-- The STATUS invariant, as rule R14 writes it. -/
theorem statusInvariant_iff {W : Nat} (st : StatusWord W) :
    statusInvariant st = true ↔
      (statusFault st = false → statusCause st = 0#2 ∧ statusInfo st = 0#W) ∧
      (statusFault st = true → statusCause st ≠ 0#2) := by
  cases h : statusFault st <;> simp [statusInvariant, h]

/-- The reset value meets the STATUS invariant (rule R14). -/
theorem statusInvariant_zero {W : Nat} : statusInvariant (0#(W + 3) : StatusWord W) = true := by
  simp [statusInvariant]

/-- Only the cause `none` has the code 0 (rule R51). -/
theorem Cause.code_ne_zero {cause : Cause} (h : cause ≠ .none) : cause.code ≠ 0#2 := by
  cases cause with
  | none => exact absurd rfl h
  | preconditionViolation | illegalCommand | positionOverflow => decide

/-- After a fault one is recorded: this one or an earlier one (rule R56). -/
@[simp] theorem statusFault_recordFault {W : Nat} (st : StatusWord W) (cause : Cause) (info : RawWord W) :
    statusFault (recordFault st cause info) = true := by
  cases h : statusFault st with
  | true => rw [recordFault_of_recorded h, h]
  | false => rw [recordFault_of_clear h, statusFault_statusPack]

/-- Recording a fault keeps the STATUS invariant. -/
theorem statusInvariant_recordFault {W : Nat} {st : StatusWord W} {cause : Cause} (info : RawWord W)
    (hst : statusInvariant st = true) (hcause : cause ≠ .none) :
    statusInvariant (recordFault st cause info) = true := by
  cases h : statusFault st with
  | true => rwa [recordFault_of_recorded h]
  | false => simp [recordFault_of_clear h, statusInvariant, Cause.code_ne_zero hcause]

/-! ## What a step did -/

/-- What a step from `s` can have done, with the state it leads to: nothing, a reset, or one of the ends of a command
(rules R38 to R43, R56, R64). -/
inductive StepEffect (s : State) : State → Prop
  | idle (hhost : s.host = []) : StepEffect s s
  | reset {tx : Transaction s.cfg.W} {rest : List (Transaction s.cfg.W)} (hhost : s.host = tx :: rest)
      (hrst : tx.rst = true) :
      StepEffect s ({ s with host := rest } : State).resetTracker
  | nop {tx : Transaction s.cfg.W} {rest : List (Transaction s.cfg.W)} (hhost : s.host = tx :: rest)
      (hrst : tx.rst = false) (hcmd : decode tx.cw = .nop) :
      StepEffect s ({ s with host := rest } : State).respondOk
  | zero {tx : Transaction s.cfg.W} {rest : List (Transaction s.cfg.W)} (hhost : s.host = tx :: rest)
      (hrst : tx.rst = false) (hcmd : decode tx.cw = .zero) :
      StepEffect s (({ s with host := rest } : State).writePosition 0).respondOk
  | sample {tx : Transaction s.cfg.W} {rest : List (Transaction s.cfg.W)} {raw : Nat} (hhost : s.host = tx :: rest)
      (hrst : tx.rst = false) (hcmd : decode tx.cw = .sample raw) (hraw : raw < s.cfg.M)
      (hfits : positionFits s.cfg.P (s.newPosition raw) = true) :
      StepEffect s ((({ s with host := rest } : State).writePosition (s.newPosition raw)).writeLastRaw raw).respondOk
  | fault {tx : Transaction s.cfg.W} {rest : List (Transaction s.cfg.W)} {raw : Nat} {cause : Cause}
      (hhost : s.host = tx :: rest) (hrst : tx.rst = false)
      (hcmd : decode tx.cw = .sample raw ∨ decode tx.cw = .reserved raw) (hcause : cause ≠ .none) :
      StepEffect s (({ s with host := rest } : State).raiseFault cause (rawRegister s.cfg.W raw))

/-- A step did one of the things listed. -/
theorem step_effect {s t : State} (h : step s = .next t) : StepEffect s t := by
  obtain ⟨-, ⟨hhost, rfl⟩ | ⟨tx, rest, hhost, ht⟩⟩ := step_cases h
  · exact .idle hhost
  · obtain ⟨hrst, rfl⟩ | ⟨hrst, hexec⟩ := transact_cases ht
    · exact .reset hhost hrst
    · obtain ⟨hcmd, rfl⟩ | ⟨hcmd, rfl⟩ | ⟨raw, hcmd, hraw, hfits, rfl⟩ | ⟨raw, cause, hcause, hcmd, rfl⟩ :=
        exec_cases hexec
      · exact .nop hhost hrst hcmd
      · exact .zero hhost hrst hcmd
      · exact .sample hhost hrst hcmd hraw hfits
      · exact .fault hhost hrst hcmd hcause

/-- Only an instance with legal parameters steps (00_scope.md section 3). -/
theorem step_legal {s t : State} (h : step s = .next t) : configLegal s.cfg = true := (step_cases h).1

/-! ## Who writes what -/

/-- No step writes the parameters (rule R12). -/
theorem step_cfg {s t : State} (h : step s = .next t) : t.cfg = s.cfg := by
  cases step_effect h <;> rfl

/-- Settles O12: the parameters are written by no transaction. -/
theorem parametersNeverChange : Obligations.ParametersNeverChange := fun _ _ h => step_cfg h

/-- A raw value below the modulus of a legal instance is a value of its register (rules R2, R39). -/
theorem rawRegister_toNat_of_lt_modulus {c : Config} {raw : Nat} (hc : configLegal c = true) (hraw : raw < c.M) :
    (rawRegister c.W raw).toNat = raw := by
  obtain ⟨_, hM, _, _⟩ := (configLegal_iff c).mp hc
  exact rawRegister_toNat (hraw.trans_le hM)

/-- The writers of `last_raw` (rule R10): reset and a completing SAMPLE. -/
theorem step_lastRaw_cases {s t : State} (h : step s = .next t) :
    t.lastRaw.toNat = s.lastRaw.toNat ∨
      ∃ tx rest, s.host = tx :: rest ∧
        (tx.rst = true ∧ t.lastRaw.toNat = 0 ∨
          tx.rst = false ∧ t.resp.fault = false ∧
            ∃ r, decode tx.cw = .sample r ∧ r < s.cfg.M ∧ t.lastRaw.toNat = r) := by
  have hc : configLegal s.cfg = true := step_legal h
  cases step_effect h with
  | idle | nop | zero | fault => exact .inl rfl
  | reset hhost hrst => exact .inr ⟨_, _, hhost, .inl ⟨hrst, by simp⟩⟩
  | sample hhost hrst hcmd hraw _ =>
    exact .inr ⟨_, _, hhost, .inr ⟨hrst, rfl, _, hcmd, hraw, rawRegister_toNat_of_lt_modulus hc hraw⟩⟩

/-- `last_raw` stays below the modulus (rule R10). -/
theorem step_lastRaw_lt {s t : State} (h : step s = .next t) (hs : s.lastRaw.toNat < s.cfg.M) :
    t.lastRaw.toNat < t.cfg.M := by
  have hM : t.cfg.M = s.cfg.M := congrArg Config.M (step_cfg h)
  obtain hkept | ⟨_, _, _, ⟨_, hzero⟩ | ⟨_, _, r, _, hr, hwritten⟩⟩ := step_lastRaw_cases h
  · omega
  · omega
  · omega

/-- Settles O31: the writers of `last_raw`, each of which leaves it below the modulus. -/
theorem lastRawWriters : Obligations.LastRawWriters := fun _ _ h => ⟨step_lastRaw_cases h, step_lastRaw_lt h⟩

/-- The range of the position register is what the width check accepts (rules R17, R39). -/
theorem positionInRange_iff (s : State) : positionInRange s ↔ positionFits s.cfg.P s.truePosition = true :=
  (positionFits_iff _ _).symm

/-- Every position register holds 0. -/
theorem positionFits_zero (P : PosWidth) : positionFits P 0 = true := by
  rw [positionFits_iff]
  intro n _
  have hpos : (0 : Int) < 2 ^ (n - 1) := by positivity
  omega

/-- The writers of `true_position` (rule R11): reset, ZERO and a completing SAMPLE, whose new position fits. -/
theorem step_truePosition_cases {s t : State} (h : step s = .next t) :
    t.truePosition = s.truePosition ∨
      ∃ tx rest, s.host = tx :: rest ∧
        (tx.rst = true ∧ t.truePosition = 0 ∨
          tx.rst = false ∧ decode tx.cw = .zero ∧ t.truePosition = 0 ∨
          tx.rst = false ∧ t.resp.fault = false ∧
            ∃ r, decode tx.cw = .sample r ∧ positionFits s.cfg.P (s.newPosition r) = true ∧
              t.truePosition = s.newPosition r) := by
  cases step_effect h with
  | idle | nop | fault => exact .inl rfl
  | reset hhost hrst => exact .inr ⟨_, _, hhost, .inl ⟨hrst, rfl⟩⟩
  | zero hhost hrst hcmd => exact .inr ⟨_, _, hhost, .inr (.inl ⟨hrst, hcmd, rfl⟩)⟩
  | sample hhost hrst hcmd _ hfits => exact .inr ⟨_, _, hhost, .inr (.inr ⟨hrst, rfl, _, hcmd, hfits, rfl⟩)⟩

/-- `true_position` stays in the range of its register (rule R11). -/
theorem step_positionInRange {s t : State} (h : step s = .next t) (hs : positionInRange s) : positionInRange t := by
  rw [positionInRange_iff] at hs ⊢
  rw [step_cfg h]
  obtain hkept | ⟨_, _, _, ⟨_, hzero⟩ | ⟨_, _, hzero⟩ | ⟨_, _, r, _, hfits, hwritten⟩⟩ := step_truePosition_cases h
  · rwa [hkept]
  · rw [hzero]; exact positionFits_zero _
  · rw [hzero]; exact positionFits_zero _
  · rwa [hwritten]

/-- Settles O32: the writers of `true_position`, each of which leaves it in its register's range. -/
theorem truePositionWriters : Obligations.TruePositionWriters := by
  refine fun s t h => ⟨?_, step_positionInRange h⟩
  obtain hkept | ⟨tx, rest, hh, hreset | hzero | ⟨hrst, hresp, r, hi, -, hwritten⟩⟩ := step_truePosition_cases h
  · exact .inl hkept
  · exact .inr ⟨tx, rest, hh, .inl hreset⟩
  · exact .inr ⟨tx, rest, hh, .inr (.inl hzero)⟩
  · exact .inr ⟨tx, rest, hh, .inr (.inr ⟨hrst, hresp, r, hi, hwritten⟩)⟩

/-! ## STATUS and the response along a step -/

/-- Every step keeps the STATUS invariant (rule R14). -/
theorem step_statusInvariant {s t : State} (h : step s = .next t) (hs : statusInvariant s.status = true) :
    statusInvariant t.status = true := by
  cases step_effect h with
  | idle | nop | zero | sample => exact hs
  | reset => exact statusInvariant_zero
  | fault _ _ _ hcause => exact statusInvariant_recordFault _ hs hcause

/-- A recorded fault stays recorded, with the whole of STATUS, or the step was a reset (rule R14). -/
theorem step_status_of_recorded {s t : State} (h : step s = .next t) (hs : statusFault s.status = true) :
    (statusFault t.status = true ∧ t.status.toNat = s.status.toNat) ∨
      ∃ tx rest, s.host = tx :: rest ∧ tx.rst = true := by
  cases step_effect h with
  | idle | nop | zero | sample => exact .inl ⟨hs, rfl⟩
  | reset hhost hrst => exact .inr ⟨_, _, hhost, hrst⟩
  | fault => exact .inl ⟨statusFault_recordFault _ _ _, congrArg BitVec.toNat (recordFault_of_recorded hs _ _)⟩

/-- Settles O29: STATUS after reset, its invariant along a step, and the first fault kept until a reset. -/
theorem statusInvariantAndFirstFault : Obligations.StatusInvariantAndFirstFault := by
  refine ⟨fun c => ⟨statusFault_zero, statusCause_zero, statusInfo_zero⟩, fun s t h => ⟨fun hs => ?_, ?_, ?_⟩⟩
  · rw [← statusInvariant_iff] at hs ⊢
    exact step_statusInvariant h hs
  · intro hs hcommand
    obtain ⟨-, hkept⟩ | ⟨tx, rest, hh, hrst⟩ := step_status_of_recorded h hs
    · exact hkept
    · simp [hcommand tx rest hh] at hrst
  · intro hs hcleared
    obtain ⟨hkept, -⟩ | hreset := step_status_of_recorded h hs
    · simp [hkept] at hcleared
    · exact hreset

/-- The response after a step: the one before it, an ok response, or a fault with a cause, which STATUS then records
(rules R20, R38, R56). -/
theorem step_response_cases {s t : State} (h : step s = .next t) :
    t = s ∨ t.resp = .ok ∨ (t.resp.fault = true ∧ t.resp.cause ≠ .none ∧ statusFault t.status = true) := by
  cases step_effect h with
  | idle => exact .inl rfl
  | reset | nop | zero | sample => exact .inr (.inl rfl)
  | fault _ _ _ hcause => exact .inr (.inr ⟨rfl, hcause, statusFault_recordFault _ _ _⟩)

/-! ## The invariant of rule R17 -/

/-- Every step keeps the invariant: its clauses on the registers one by one, and the response's by its three cases. -/
theorem trackerInv_step {s t : State} (hs : TrackerInv s) (h : step s = .next t) : TrackerInv t where
  legal := by rw [step_cfg h]; exact hs.legal
  lastRaw := step_lastRaw_lt h hs.lastRaw
  position := step_positionInRange h hs.position
  status := step_statusInvariant h hs.status
  response := by
    obtain rfl | hok | ⟨hfault, hcause, -⟩ := step_response_cases h
    · exact hs.response
    · simp [hok]
    · simp [hfault, hcause]
  recorded := by
    obtain rfl | hok | ⟨-, -, hrecorded⟩ := step_response_cases h
    · exact hs.recorded
    · simp [hok]
    · exact fun _ => hrecorded

/-- Settles O35: the invariant's step lemma. -/
theorem stepKeepsTheInvariant : Obligations.StepKeepsTheInvariant := fun _ _ hs h => trackerInv_step hs h

/-- The reset state of a legal instance meets the invariant, whatever the host has issued (rules R16, R17). -/
theorem trackerInv_loaded {c : Config} (hc : configLegal c = true) (txs : List (Transaction c.W)) :
    TrackerInv (State.loaded c txs) where
  legal := hc
  lastRaw := by
    obtain ⟨hM, _, _, _⟩ := (configLegal_iff c).mp hc
    exact hM
  position := (positionInRange_iff _).mpr (positionFits_zero c.P)
  status := statusInvariant_zero
  response := by simp [State.loaded]
  recorded := by simp [State.loaded]

/-- Settles O34: the reset state is that of the default instance with nothing issued. -/
theorem resetMeetsTheInvariant : Obligations.ResetMeetsTheInvariant :=
  trackerInv_loaded (c := Config.standard) (by decide) []

/-- Settles O13: the reset state's fields, at the default parameters. -/
theorem resetStateValues : Obligations.ResetStateValues :=
  ⟨rfl, rfl, rfl, by decide⟩

/-- What every step keeps, a run keeps. -/
theorem run_keeps {Q : State → Prop} (hstep : ∀ s t, Q s → step s = .next t → Q t) {k : Nat} {s t : State}
    (h : Host.Core.run Sys2Proof.core k s = .next t) (hs : Q s) : Q t := by
  induction k generalizing s with
  | zero =>
    obtain rfl : s = t := Host.Outcome.next.inj h
    exact hs
  | succ k ih =>
    obtain ⟨u, hu, hrun⟩ := run_succ h
    exact ih hrun (hstep s u hs hu)

/-- A run keeps the invariant. -/
theorem trackerInv_run {k : Nat} {s t : State} (hs : TrackerInv s)
    (h : Host.Core.run Sys2Proof.core k s = .next t) : TrackerInv t :=
  run_keeps (fun _ _ hs h => trackerInv_step hs h) h hs

/-- No run writes the parameters (rule R12). -/
theorem run_cfg {k : Nat} {s t : State} (h : Host.Core.run Sys2Proof.core k s = .next t) : t.cfg = s.cfg :=
  run_keeps (Q := fun u => u.cfg = s.cfg) (fun _ _ hu h => (step_cfg h).trans hu) h rfl

/-- Settles O36: the invariant holds of the reset state and is kept by runs, and its clauses are those of rule R17. -/
theorem reachableStatesMeetTheInvariant : Obligations.ReachableStatesMeetTheInvariant := by
  intro c txs k t hc h
  have hinv : TrackerInv t := trackerInv_run (trackerInv_loaded hc txs) h
  obtain rfl : t.cfg = c := run_cfg h
  exact ⟨hinv.lastRaw, hinv.position, (statusInvariant_iff _).mp hinv.status⟩

end Sys2Proof.Machine
end

section
/-! PROOFS. The statements of 20_memory.md: the input ports and `pos_out` (rules R20 to R22), and the runs of the merged
streams of several contexts (rules R26, R27). -/

namespace Sys2Proof.Machine

/-! ## The input ports -/

/-- The `cmd` field of a word made of two fields (rule R30). -/
@[simp] theorem cmdField_makeWord {W : Nat} (cmd : Code) (raw : RawWord W) : cmdField (makeWord cmd raw) = cmd := by
  rw [cmdField, makeWord, BitVec.extractLsb'_cast]
  exact BitVec.extractLsb'_append_eq_left

/-- The `raw` field of a word made of two fields (rule R30). -/
@[simp] theorem rawField_makeWord {W : Nat} (cmd : Code) (raw : RawWord W) : rawField (makeWord cmd raw) = raw := by
  rw [rawField, makeWord, BitVec.extractLsb'_cast]
  exact BitVec.extractLsb'_append_eq_right

/-- A one-bit vector is its only bit. -/
theorem ofBool_getLsbD_zero : ∀ b : BitVec 1, BitVec.ofBool (b.getLsbD 0) = b := by decide

/-- Settles O9: `rst` is a vector of one bit, and the other two ports are the fields of the word made of them. -/
theorem portsOfATransaction : Obligations.PortsOfATransaction := fun _ rst cmd raw =>
  ⟨ofBool_getLsbD_zero rst, cmdField_makeWord cmd raw, rawField_makeWord cmd raw⟩

/-! ## The port `pos_out` -/

/-- At `P = INF` the port shows the integer (rule R20). -/
theorem State.posOut_of_inf {s : State} (hP : s.cfg.P = .inf) : s.posOut = .integer s.truePosition := by
  rw [State.posOut, hP, showPosition]

/-- At `P = n` the port shows the encoded position (rule R22). -/
theorem State.posOut_of_bits {s : State} {n : Nat} (hP : s.cfg.P = .bits n) :
    s.posOut = .vector n (encP n s.truePosition) := by
  rw [State.posOut, hP, showPosition]

/-- A value of an `n`-bit register is the signed value of its encoding (rule R6). -/
theorem encP_toInt {n : Nat} {i : Int} (hn : 0 < n) (hlow : -(2 : Int) ^ (n - 1) ≤ i)
    (hhigh : i ≤ (2 : Int) ^ (n - 1) - 1) : (encP n i).toInt = i :=
  BitVec.toInt_ofInt_eq_self hn hlow (Int.lt_of_le_sub_one hhigh)

/-- The encoding of 0 is the zero vector. -/
@[simp] theorem encP_zero (n : Nat) : encP n 0 = 0#n := by
  simp [encP]

/-- ZERO writes 0 to the position and responds (rule R41). -/
theorem exec_zero (s : State) : exec .zero s = .next (s.writePosition 0).respondOk := rfl

/-- Settles O33: the position is in its register's range, where encoding it loses nothing; and ZERO makes it 0. -/
theorem posOutShowsThePosition : Obligations.PosOutShowsThePosition := by
  refine fun s hs => ⟨State.posOut_of_inf, fun n hP => ?_, fun t n ht hP => ?_, fun t ht hP => ?_⟩
  · obtain ⟨_, _, _, hwidth⟩ := (configLegal_iff s.cfg).mp hs.legal
    obtain ⟨hn, _⟩ := hwidth n hP
    obtain ⟨hlow, hhigh⟩ := hs.position n hP
    exact ⟨_, State.posOut_of_bits hP, encP_toInt (by omega) hlow hhigh⟩
  · obtain rfl := Host.Outcome.next.inj ((exec_zero s).symm.trans ht)
    simp [State.posOut_of_bits (s := (s.writePosition 0).respondOk) hP]
  · obtain rfl := Host.Outcome.next.inj ((exec_zero s).symm.trans ht)
    simp [State.posOut_of_inf (s := (s.writePosition 0).respondOk) hP]

/-! ## Runs of merged streams -/

/-- A step takes the first transaction of the host, if there is one (rule R26). -/
theorem step_host_length {s t : State} (h : step s = .next t) : t.host.length = s.host.length - 1 := by
  cases step_effect h with
  | idle hhost | reset hhost | nop hhost | zero hhost | sample hhost | fault hhost => simp [hhost]

/-- A legal instance takes every transaction its host has issued, in as many steps (rule R71). -/
theorem run_takes_every_transaction {s : State} (hc : configLegal s.cfg = true) :
    ∃ t, Host.Core.run Sys2Proof.core s.host.length s = .next t ∧ t.host = [] := by
  induction hk : s.host.length generalizing s with
  | zero => exact ⟨s, run_zero s, List.eq_nil_of_length_eq_zero hk⟩
  | succ k ih =>
    obtain ⟨u, hu⟩ := step_answers hc
    have hlen : u.host.length = k := by rw [step_host_length hu, hk, Nat.add_sub_cancel]
    obtain ⟨t, hrun, hempty⟩ := ih (by rwa [step_cfg hu]) hlen
    exact ⟨t, (run_of_step hu).trans hrun, hempty⟩

/-- Taking the first element of one of several lists makes their total length one less. -/
theorem sum_length_of_getElem?_cons {α : Type} {ctxs : List (List α)} {k : Nat} {a : α} {rest : List α}
    (h : ctxs[k]? = some (a :: rest)) :
    (ctxs.map List.length).sum = ((ctxs.set k rest).map List.length).sum + 1 := by
  induction ctxs generalizing k with
  | nil => simp at h
  | cons c ctxs ih =>
    cases k with
    | zero =>
      obtain rfl : c = a :: rest := by simpa using h
      simp only [List.set_cons_zero, List.map_cons, List.sum_cons, List.length_cons]
      omega
    | succ k =>
      have hrest := ih (k := k) (by simpa using h)
      simp only [List.set_cons_succ, List.map_cons, List.sum_cons]
      omega

/-- A merge has as many elements as the merged lists together (rule R27). -/
theorem length_of_merges {α : Type} {ctxs : List (List α)} {out : List α} (h : Merges ctxs out) :
    out.length = (ctxs.map List.length).sum := by
  induction h with
  | done ctxs hempty =>
    exact (List.sum_eq_zero (List.forall_mem_map.mpr fun c hc => congrArg List.length (hempty c hc))).symm
  | pick ctxs k a rest out hk _ ih => rw [sum_length_of_getElem?_cons hk, ← ih, List.length_cons]

/-- Settles O37: the merge's length is the contexts' total, and every stream issued after a reset is taken whole. -/
theorem everyMergeIsARun : Obligations.EveryMergeIsARun := by
  intro c ctxs txs hc hmerge
  have hinv : TrackerInv (State.loaded c txs) := trackerInv_loaded hc txs
  obtain ⟨t, hrun, hempty⟩ := run_takes_every_transaction hinv.legal
  exact ⟨length_of_merges hmerge, t, hrun, hempty, trackerInv_run hinv hrun⟩

end Sys2Proof.Machine
end

section
/-! PROOFS. The statements of 30_encoding.md: the fields of a command word as numbers (rules R30, R31), decoding and
encoding (rules R32, R36), the ignored raw field and the reserved code (rules R33, R34), and the assembler (rule R37).
A word is its two fields and a command is its code and its raw bits, so most statements are about codes and raw fields
only. -/

namespace Sys2Proof.Machine

/-! ## The fields of a word -/

/-- The `cmd` field as a number (rule R30). -/
theorem cmdField_toNat {W : Nat} (cw : CommandWord W) : (cmdField cw).toNat = cw.toNat / 2 ^ W := by
  have hlt : cw.toNat / 2 ^ W < 4 := Nat.div_lt_of_lt_mul (by rw [← Nat.pow_add 2 W 2]; exact cw.isLt)
  rw [cmdField, BitVec.extractLsb'_toNat, Nat.shiftRight_eq_div_pow, Nat.mod_eq_of_lt hlt]

/-- The `raw` field as a number (rule R30). -/
theorem rawField_toNat {W : Nat} (cw : CommandWord W) : (rawField cw).toNat = cw.toNat % 2 ^ W := by
  rw [rawField, BitVec.extractLsb'_toNat, Nat.shiftRight_zero]

/-- A word has the code that its quotient by `2^W` says (rule R32). -/
theorem cmdField_eq_iff {W : Nat} {cw : CommandWord W} {c : Code} :
    cmdField cw = c ↔ cw.toNat / 2 ^ W = c.toNat := by
  rw [← BitVec.toNat_inj, cmdField_toNat]

/-- The word of two fields as a number (rule R30). -/
theorem makeWord_toNat {W : Nat} (cmd : Code) (raw : RawWord W) :
    (makeWord cmd raw).toNat = cmd.toNat * 2 ^ W + raw.toNat := by
  rw [makeWord, BitVec.toNat_cast, toNat_append_eq_add]

/-- The two fields take up the whole word. -/
theorem makeWord_of_fields {W : Nat} (cw : CommandWord W) : makeWord (cmdField cw) (rawField cw) = cw := by
  apply BitVec.eq_of_toNat_eq
  rw [makeWord_toNat, cmdField_toNat, rawField_toNat]
  exact Nat.div_add_mod' _ _

/-! ## Decoding by the code -/

theorem decode_of_cmdField_nop {W : Nat} {cw : CommandWord W} (h : cmdField cw = 0b00#2) : decode cw = .nop := by
  simp [decode, h]

theorem decode_of_cmdField_sample {W : Nat} {cw : CommandWord W} (h : cmdField cw = 0b01#2) :
    decode cw = .sample (rawField cw).toNat := by
  simp [decode, h]

theorem decode_of_cmdField_zero {W : Nat} {cw : CommandWord W} (h : cmdField cw = 0b10#2) : decode cw = .zero := by
  simp [decode, h]

theorem decode_of_cmdField_reserved {W : Nat} {cw : CommandWord W} (h : cmdField cw = 0b11#2) :
    decode cw = .reserved (rawField cw).toNat := by
  simp [decode, h]

/-- There are four codes. -/
theorem code_cases : ∀ c : Code, c = 0b00#2 ∨ c = 0b01#2 ∨ c = 0b10#2 ∨ c = 0b11#2 := by decide

/-- Settles O2: the decoder's cases, with the fields as numbers. -/
theorem decodeFollowsTheCodes : Obligations.DecodeFollowsTheCodes := by
  intro W cw
  rw [← cmdField_toNat, ← rawField_toNat]
  exact ⟨(cmdField cw).isLt,
    fun h => decode_of_cmdField_nop (BitVec.eq_of_toNat_eq h),
    fun h => decode_of_cmdField_sample (BitVec.eq_of_toNat_eq h),
    fun h => decode_of_cmdField_zero (BitVec.eq_of_toNat_eq h),
    fun h => decode_of_cmdField_reserved (BitVec.eq_of_toNat_eq h)⟩

/-- Decoding keeps the code (rules R32, R36). -/
@[simp] theorem code_decode {W : Nat} (cw : CommandWord W) : (decode cw).code = cmdField cw := by
  rcases code_cases (cmdField cw) with h | h | h | h
  · rw [decode_of_cmdField_nop h, h, Instr.code]
  · rw [decode_of_cmdField_sample h, h, Instr.code]
  · rw [decode_of_cmdField_zero h, h, Instr.code]
  · rw [decode_of_cmdField_reserved h, h, Instr.code]

/-- Decoding gives a command that a word can carry (rule R31). -/
theorem wellFormed_decode {W : Nat} (cw : CommandWord W) : (decode cw).wellFormed W = true := by
  rcases code_cases (cmdField cw) with h | h | h | h
  · rw [decode_of_cmdField_nop h, Instr.wellFormed]
  · rw [decode_of_cmdField_sample h, Instr.wellFormed, rawFits_iff]
    exact (rawField cw).isLt
  · rw [decode_of_cmdField_zero h, Instr.wellFormed]
  · rw [decode_of_cmdField_reserved h, Instr.wellFormed, rawFits_iff]
    exact (rawField cw).isLt

/-- The raw bits of a word are lost neither as an operand nor as a register value (rules R31, R56). -/
@[simp] theorem rawRegister_of_toNat {W : Nat} (raw : RawWord W) : rawRegister W raw.toNat = raw := by
  rw [rawRegister, BitVec.ofNat_toNat, BitVec.setWidth_eq]

/-- Where the raw field is not ignored, decoding keeps it (rules R31, R36). -/
theorem rawBits_decode {W : Nat} {cw : CommandWord W} (h : cmdField cw = 0b01#2 ∨ cmdField cw = 0b11#2) :
    (decode cw).rawBits W = rawField cw := by
  rcases h with h | h
  · rw [decode_of_cmdField_sample h]
    exact rawRegister_of_toNat _
  · rw [decode_of_cmdField_reserved h]
    exact rawRegister_of_toNat _

/-! ## Encoding -/

@[simp] theorem cmdField_encode (W : Nat) (i : Instr) : cmdField (encode W i) = i.code := cmdField_makeWord _ _

@[simp] theorem rawField_encode (W : Nat) (i : Instr) : rawField (encode W i) = i.rawBits W := rawField_makeWord _ _

/-- The word of a command as a number (rule R32). -/
theorem encode_toNat (W : Nat) (i : Instr) :
    (encode W i).toNat = i.code.toNat * 2 ^ W + (i.rawBits W).toNat := makeWord_toNat _ _

/-- Decoding the word of a command that a word can carry gives the command back. -/
theorem decode_encode {W : Nat} {i : Instr} (h : i.wellFormed W = true) : decode (encode W i) = i := by
  have hcode : cmdField (encode W i) = i.code := cmdField_encode W i
  cases i with
  | nop => exact decode_of_cmdField_nop hcode
  | sample raw =>
    have hraw : raw < 2 ^ W := (rawFits_iff W raw).mp h
    rw [decode_of_cmdField_sample hcode, rawField_encode]
    exact congrArg Instr.sample (rawRegister_toNat hraw)
  | zero => exact decode_of_cmdField_zero hcode
  | reserved raw =>
    have hraw : raw < 2 ^ W := (rawFits_iff W raw).mp h
    rw [decode_of_cmdField_reserved hcode, rawField_encode]
    exact congrArg Instr.reserved (rawRegister_toNat hraw)

/-- Settles O3: the code selects the command, and an operand that fits is its raw field. -/
theorem decodeOfEncodeIsTheCommand : Obligations.DecodeOfEncodeIsTheCommand := fun _ _ => decode_encode

/-- Settles O4: decoding keeps the code and an unignored raw field, and the two make up the word. -/
theorem encodeOfDecodeIsTheWord : Obligations.EncodeOfDecodeIsTheWord := by
  refine fun W cw => ⟨wellFormed_decode cw, by rw [cmdField_encode, code_decode], fun h => ?_⟩
  calc encode W (decode cw) = makeWord (decode cw).code ((decode cw).rawBits W) := rfl
    _ = makeWord (cmdField cw) (rawField cw) := by rw [code_decode, rawBits_decode h]
    _ = cw := makeWord_of_fields cw

/-- Settles O5: each command's code and raw bits as numbers. -/
theorem encodedWordIsCodeAndRaw : Obligations.EncodedWordIsCodeAndRaw := by
  intro W r hr
  simp [encode_toNat, Instr.code, Instr.rawBits, Nat.mod_eq_of_lt hr]

/-! ## The decoder of any number -/

/-- A number of at most `W + 2` bits decodes as its word (rule R30). -/
theorem decodeNat_of_lt {W n : Nat} (h : n < 2 ^ (W + 2)) :
    decodeNat W n = .ok (decode (BitVec.ofNat (W + 2) n)) := if_pos h

/-- A wider number is rejected by name (rule R35). -/
theorem decodeNat_of_le {W n : Nat} (h : 2 ^ (W + 2) ≤ n) : decodeNat W n = .error .wordTooWide := if_neg h.not_gt

/-- Settles O6: the decoder of any number asks for the width only. -/
theorem onlyWiderNumbersAreNoWord : Obligations.OnlyWiderNumbersAreNoWord :=
  fun _ _ => ⟨decodeNat_of_lt, decodeNat_of_le⟩

/-- Settles O1: nine fixed words, evaluated at W = 16. -/
theorem knownWordsDecode : Obligations.KnownWordsDecode := by
  unfold Obligations.KnownWordsDecode
  decide

/-! ## The ignored raw field and the reserved code -/

/-- NOP responds (rule R42). -/
theorem exec_nop (s : State) : exec .nop s = .next s.respondOk := rfl

/-- The reserved code raises ILLEGAL_COMMAND (rule R43). -/
theorem exec_reserved (raw : Nat) (s : State) :
    exec (.reserved raw) s = .next (s.raiseFault .illegalCommand (rawRegister s.cfg.W raw)) := rfl

/-- Settles O7: the code alone selects the command, and only the first-fault record takes the raw field. -/
theorem ignoredRawFieldHasNoEffect : Obligations.IgnoredRawFieldHasNoEffect := by
  intro s raw
  refine ⟨?_, ?_, ?_⟩
  · rw [decode_of_cmdField_nop (cmdField_makeWord _ _), exec_nop, State.respondOk]
  · rw [decode_of_cmdField_zero (cmdField_makeWord _ _), exec_zero, State.writePosition, State.respondOk]
  · rw [decode_of_cmdField_reserved (cmdField_makeWord _ _), rawField_makeWord, exec_reserved, rawRegister_of_toNat,
      State.raiseFault, recordFault, Cause.code]

/-- The reserved code is the one command that answers with ILLEGAL_COMMAND (rules R34, R53). -/
theorem exec_illegal_iff {i : Instr} {s t : State} (h : exec i s = .next t) :
    t.resp = { fault := true, cause := .illegalCommand } ↔ i.code = 0b11#2 := by
  cases i with
  | nop =>
    obtain rfl := Host.Outcome.next.inj ((exec_nop s).symm.trans h)
    simp [Response.ok, Instr.code]
  | sample raw =>
    obtain ⟨-, -, rfl⟩ | ⟨-, -, rfl⟩ | ⟨-, rfl⟩ := exec_sample_cases h
    · simp [Response.ok, Instr.code]
    · simp [Instr.code]
    · simp [Instr.code]
  | zero =>
    obtain rfl := Host.Outcome.next.inj ((exec_zero s).symm.trans h)
    simp [Response.ok, Instr.code]
  | reserved raw =>
    obtain rfl := Host.Outcome.next.inj ((exec_reserved raw s).symm.trans h)
    simp [Instr.code]

/-- Settles O8: the response by the command's code, which is the word's, and the fault's frame. -/
theorem onlyTheReservedCodeIsIllegal : Obligations.OnlyTheReservedCodeIsIllegal := by
  intro s t cw h
  have hcode : cmdField cw = 0b11#2 ↔ cw.toNat / 2 ^ s.cfg.W = 3 := cmdField_eq_iff
  refine ⟨by rw [exec_illegal_iff h, code_decode, hcode], fun h3 => ?_⟩
  rw [decode_of_cmdField_reserved (hcode.mpr h3), exec_reserved] at h
  obtain rfl := Host.Outcome.next.inj h
  exact ⟨_, rfl⟩

/-! ## The assembler -/

/-- A SAMPLE whose number fits assembles to its word (rule R37). -/
theorem assemble_sample_of_lt {W n : Nat} (h : n < 2 ^ W) :
    assemble W (.sample n) = .ok (Transaction.command (encode W (.sample n))) := if_pos ((rawFits_iff W n).mpr h)

/-- A SAMPLE with a wider number is an error (rule R37). -/
theorem assemble_sample_of_le {W n : Nat} (h : 2 ^ W ≤ n) : assemble W (.sample n) = .error .sampleTooLarge :=
  if_neg (mt (rawFits_iff W n).mp h.not_gt)

/-- A `.word` whose number fits is that word (rule R37). -/
theorem assemble_word_of_lt {W n : Nat} (h : n < 2 ^ (W + 2)) :
    assemble W (.word n) = .ok (Transaction.command (BitVec.ofNat (W + 2) n)) := if_pos h

/-- A `.word` with a wider number is an error (log entry 11). -/
theorem assemble_word_of_le {W n : Nat} (h : 2 ^ (W + 2) ≤ n) : assemble W (.word n) = .error .wordTooLarge :=
  if_neg h.not_gt

/-- Settles O10: each command's transaction, read back by `decode_encode`, and the two errors. -/
theorem assemblerEmitsTheCommands : Obligations.AssemblerEmitsTheCommands := fun W n =>
  ⟨fun h => ⟨_, assemble_sample_of_lt h, rfl, decode_encode ((rawFits_iff W n).mpr h)⟩,
    assemble_sample_of_le,
    ⟨_, rfl, rfl, decode_encode rfl, rawField_encode W .zero⟩,
    ⟨_, rfl, rfl, decode_encode rfl, rawField_encode W .nop⟩,
    ⟨_, rfl, rfl⟩,
    fun h => ⟨_, assemble_word_of_lt h, rfl, (BitVec.toNat_ofNat n _).trans (Nat.mod_eq_of_lt h)⟩,
    assemble_word_of_le⟩

end Sys2Proof.Machine
end

section
/-! PROOFS. The statements of 40_tracker_commands.md: the correction as a function on integers (rules R40, R44, R46, R47),
the meanings of the four commands and their frames (rules R38 to R43), and what follows of a run: the congruence of the two
registers (R45), repeated reads (R48), the sum of the deltas (R49), faults (R50) and the shaft. The correction is the one
value within half a modulus that is congruent to the raw delta, up to the sign of a tie; what a run does follows from one
equation for a SAMPLE that completes. -/

namespace Sys2Proof.Machine

/-! ## The correction: its three branches (rule R40) -/

theorem corr_of_gt {M : Nat} {delta : Int} (h : 2 * delta > M) : corr M delta = delta - M := if_pos h

theorem corr_of_lt {M : Nat} {delta : Int} (h : 2 * delta < -(M : Int)) : corr M delta = delta + M := by
  rw [corr, if_neg (by omega), if_pos h]

theorem corr_of_within {M : Nat} {delta : Int} (hlow : -(M : Int) ≤ 2 * delta) (hhigh : 2 * delta ≤ M) :
    corr M delta = delta := by
  rw [corr, if_neg (by omega), if_neg (by omega)]

/-- Settles O39: the branches, and integer arithmetic; the floor of `-M / 2` itself shows the other rule for odd `M`. -/
theorem correctionThresholds : Obligations.CorrectionThresholds := fun M _ _ =>
  ⟨corr_of_gt, corr_of_lt, corr_of_within, by omega, by omega, by omega, fun _ => ⟨-(M : Int) / 2, by omega⟩⟩

/-! ## The correction: residue, range and symmetry -/

/-- The correction subtracts a multiple of the modulus (rule R44). -/
theorem corr_modEq (M : Nat) (delta : Int) : corr M delta ≡ delta [ZMOD M] := by
  obtain ⟨-, h⟩ | ⟨-, h⟩ | ⟨-, -, h⟩ := corr_cases M delta
  · rw [h]; exact Int.sub_emod_right _ _
  · rw [h]; exact Int.add_emod_right _ _
  · rw [h]

/-- A corrected delta of two raw values is within half a modulus (rule R44). -/
theorem corr_within_half {M : Nat} {delta : Int} (hlow : -(M : Int) < delta) (hhigh : delta < M) :
    -(M : Int) ≤ 2 * corr M delta ∧ 2 * corr M delta ≤ M := by
  obtain ⟨_, h⟩ | ⟨_, h⟩ | ⟨_, _, h⟩ := corr_cases M delta <;> omega

/-- The same bound on the magnitude. -/
theorem two_mul_abs_corr_le {M : Nat} {delta : Int} (hlow : -(M : Int) < delta) (hhigh : delta < M) :
    2 * |corr M delta| ≤ M := by
  obtain ⟨hmin, hmax⟩ := corr_within_half hlow hhigh
  obtain ⟨habs, -⟩ | ⟨habs, -⟩ := abs_cases (corr M delta) <;> omega

/-- A tie is an uncorrected raw delta (rule R44). -/
theorem corr_eq_self_of_tie {M : Nat} {delta : Int} (hlow : -(M : Int) < delta) (hhigh : delta < M)
    (htie : 2 * corr M delta = M ∨ 2 * corr M delta = -(M : Int)) : corr M delta = delta := by
  obtain ⟨_, h⟩ | ⟨_, h⟩ | ⟨_, _, h⟩ := corr_cases M delta <;> omega

/-- The correction is odd: its thresholds are symmetric and strict on both sides (rule R47). -/
theorem corr_neg (M : Nat) (delta : Int) : corr M (-delta) = -corr M delta := by
  obtain ⟨hgt, h⟩ | ⟨hlt, h⟩ | ⟨hhigh, hlow, h⟩ := corr_cases M delta
  · rw [h, corr_of_lt (by omega)]; omega
  · rw [h, corr_of_gt (by omega)]; omega
  · rw [h, corr_of_within (by omega) (by omega)]

/-- Settles O40: each branch's value, the residue and the range. -/
theorem correctionRange : Obligations.CorrectionRange := by
  intro M delta hlow hhigh
  obtain ⟨hmin, hmax⟩ := corr_within_half hlow hhigh
  refine ⟨?_, corr_modEq M delta, hmin, hmax, ⟨fun h => h ▸ ⟨hmin, hmax⟩, fun h => corr_of_within h.1 h.2⟩,
    corr_eq_self_of_tie hlow hhigh⟩
  obtain ⟨-, h⟩ | ⟨-, h⟩ | ⟨-, -, h⟩ := corr_cases M delta
  · exact .inl h
  · exact .inr (.inr h)
  · exact .inr (.inl h)

/-! ## The correction of a true displacement -/

/-- Congruent integers less than a modulus apart are equal. -/
theorem eq_of_modEq_of_near {M a b : Int} (h : a ≡ b [ZMOD M]) (hnear : |a - b| < M) : a = b :=
  Int.sub_eq_zero.mp (Int.eq_zero_of_abs_lt_dvd h.symm.dvd hnear)

section Displacement

variable {M : Nat} {l r t : Int}

/-- The correction of two raw values is congruent to the displacement between them (rule R46). -/
theorem corr_sub_modEq (ht : r ≡ l + t [ZMOD M]) : corr M (r - l) ≡ t [ZMOD M] :=
  calc corr M (r - l) ≡ r - l [ZMOD M] := corr_modEq M (r - l)
    _ ≡ l + t - l [ZMOD M] := ht.sub_right l
    _ = t := by omega

variable (hl : 0 ≤ l) (hlM : l < M) (hr : 0 ≤ r) (hrM : r < M)
include hl hlM hr hrM

/-- The correction of two raw values is within half a modulus, so it is the only value there that is congruent to the
displacement between them, unless a tie meets a tie (rule R46). -/
theorem eq_corr_sub_of_modEq {v : Int} (hv : corr M (r - l) ≡ v [ZMOD M]) (hvM : 2 * |v| ≤ M)
    (hstrict : 2 * |v| ≠ M ∨ 2 * |corr M (r - l)| ≠ M) : v = corr M (r - l) := by
  have hcorr : 2 * |corr M (r - l)| ≤ M := two_mul_abs_corr_le (by omega) (by omega)
  have htriangle : |corr M (r - l) - v| ≤ |corr M (r - l)| + |v| := abs_sub _ _
  exact (eq_of_modEq_of_near hv (by omega)).symm

/-- A tie's sign is the side of the half modulus that the earlier raw value lies on (rule R46). -/
theorem corr_sub_pos_iff_of_tie (htie : 2 * |corr M (r - l)| = M) : 0 < corr M (r - l) ↔ 2 * l < M := by
  obtain ⟨habs, _⟩ | ⟨habs, _⟩ := abs_cases (corr M (r - l))
  · have hraw : corr M (r - l) = r - l := corr_eq_self_of_tie (by omega) (by omega) (.inl (by omega))
    omega
  · have hraw : corr M (r - l) = r - l := corr_eq_self_of_tie (by omega) (by omega) (.inr (by omega))
    omega

/-- Within the sampling contract the correction is the true displacement (rules R46, R68). -/
theorem corr_sub_eq_of_contract (ht : r ≡ l + t [ZMOD M]) (hcontract : samplingContract M t) :
    corr M (r - l) = t :=
  (eq_corr_sub_of_modEq hl hlM hr hrM (corr_sub_modEq ht) (le_of_lt hcontract) (.inl (ne_of_lt hcontract))).symm

/-- At exactly half a modulus the correction is the displacement or its negative (rule R46). -/
theorem corr_sub_eq_or_eq_neg_of_half (ht : r ≡ l + t [ZMOD M]) (hhalf : 2 * |t| = M) :
    corr M (r - l) = t ∨ corr M (r - l) = -t := by
  by_cases htie : 2 * |corr M (r - l)| = M
  · exact abs_eq_abs.mp (by omega)
  · exact .inl (eq_corr_sub_of_modEq hl hlM hr hrM (corr_sub_modEq ht) hhalf.le (.inr htie)).symm

/-- At exactly half a modulus the rule names the side on which the correction is the displacement (rule R46). -/
theorem corr_sub_eq_iff_of_half (ht : r ≡ l + t [ZMOD M]) (hhalf : 2 * |t| = M) :
    corr M (r - l) = t ↔ (0 < t ∧ 2 * l < M) ∨ (t < 0 ∧ (M : Int) ≤ 2 * l) := by
  have hcases : corr M (r - l) = t ∨ corr M (r - l) = -t := corr_sub_eq_or_eq_neg_of_half hl hlM hr hrM ht hhalf
  have habs : |corr M (r - l)| = |t| := abs_eq_abs.mpr hcases
  have hside : 0 < corr M (r - l) ↔ 2 * l < M := corr_sub_pos_iff_of_tie hl hlM hr hrM (by omega)
  have hmoved : 0 < |t| := by omega
  have ht0 : t ≠ 0 := abs_pos.mp hmoved
  obtain h | h := hcases <;> omega

end Displacement

/-- Settles O42: the three cases of rule R46, each from the one congruent value within half a modulus. -/
theorem unwrappingIsCorrectWithinContract : Obligations.UnwrappingIsCorrectWithinContract := by
  intro M l r t hl hlM hr hrM ht
  have hcongr : corr M (r - l) ≡ t [ZMOD M] := corr_sub_modEq ht
  obtain ⟨hmin, hmax⟩ := corr_within_half (M := M) (delta := r - l) (by omega) (by omega)
  refine ⟨corr_sub_eq_of_contract hl hlM hr hrM ht,
    fun hhalf => ⟨corr_sub_eq_iff_of_half hl hlM hr hrM ht hhalf,
      corr_sub_eq_or_eq_neg_of_half hl hlM hr hrM ht hhalf⟩,
    fun hbeyond => ⟨?_, hcongr, hmin, hmax, fun v hv hvmin hvmax hstrict => ?_,
      corr_sub_pos_iff_of_tie hl hlM hr hrM⟩⟩
  · rintro rfl
    have hcorr : 2 * |corr M (r - l)| ≤ M := two_mul_abs_corr_le (by omega) (by omega)
    omega
  · have hvM : 2 * |v| ≤ M := by
      obtain ⟨habs, -⟩ | ⟨habs, -⟩ := abs_cases v <;> omega
    exact eq_corr_sub_of_modEq hl hlM hr hrM (hcongr.trans (Eq.symm hv)) hvM (.inr hstrict)

/-! ## The four commands and the transaction -/

/-- A SAMPLE in range whose new position fits completes (rule R39). -/
theorem exec_sample_completes {s : State} {r : Nat} (hr : r < s.cfg.M)
    (hfits : positionFits s.cfg.P (s.newPosition r) = true) :
    exec (.sample r) s = .next ((s.writePosition (s.newPosition r)).writeLastRaw r).respondOk := by
  simp [exec, execSample, hr, hfits]

/-- A SAMPLE out of range raises PRECONDITION_VIOLATION (rule R52). -/
theorem exec_sample_of_outOfRange {s : State} {r : Nat} (hr : s.cfg.M ≤ r) :
    exec (.sample r) s = .next (s.raiseFault .preconditionViolation (rawRegister s.cfg.W r)) := by
  simp [exec, execSample, hr.not_gt]

/-- A SAMPLE in range whose new position does not fit raises POSITION_OVERFLOW (rule R54). -/
theorem exec_sample_of_overflow {s : State} {r : Nat} (hr : r < s.cfg.M)
    (hfits : ¬ positionFits s.cfg.P (s.newPosition r) = true) :
    exec (.sample r) s = .next (s.raiseFault .positionOverflow (rawRegister s.cfg.W r)) := by
  simp [exec, execSample, hr, hfits]

/-- Settles O19: the three ends of SAMPLE, in the order of the checks. -/
theorem sampleFollowsTheRule : Obligations.SampleFollowsTheRule := fun _ _ =>
  ⟨fun hr hfits => exec_sample_completes hr ((positionFits_iff _ _).mpr hfits),
    exec_sample_of_outOfRange,
    fun hr hfits => exec_sample_of_overflow hr (mt (positionFits_iff _ _).mp hfits)⟩

/-- Settles O17: NOP responds. -/
theorem nopOnlyResponds : Obligations.NopOnlyResponds := exec_nop

/-- Settles O18: ZERO writes the position and responds. -/
theorem zeroWritesOnlyThePosition : Obligations.ZeroWritesOnlyThePosition := exec_zero

/-- Settles O20: the reserved code raises its fault. -/
theorem reservedRaisesIllegalCommand : Obligations.ReservedRaisesIllegalCommand := fun s x => exec_reserved x s

/-- A SAMPLE that answered without a fault was in range, its position fitted, and it wrote both registers (rule R39). -/
theorem exec_sample_completed {s t : State} {r : Nat} (h : exec (.sample r) s = .next t) (hok : t.resp.fault = false) :
    r < s.cfg.M ∧ positionFits s.cfg.P (s.newPosition r) = true ∧
      t = ((s.writePosition (s.newPosition r)).writeLastRaw r).respondOk := by
  obtain hdone | ⟨-, -, rfl⟩ | ⟨-, rfl⟩ := exec_sample_cases h
  · exact hdone
  · simp at hok
  · simp at hok

/-- A SAMPLE that faulted wrote STATUS and the response only (rule R56). -/
theorem exec_sample_faulted {s t : State} {r : Nat} (h : exec (.sample r) s = .next t) (hfault : t.resp.fault = true) :
    ∃ st, t = { s with status := st, resp := t.resp } := by
  obtain ⟨-, -, rfl⟩ | ⟨-, -, rfl⟩ | ⟨-, rfl⟩ := exec_sample_cases h
  · simp at hfault
  · exact ⟨_, rfl⟩
  · exact ⟨_, rfl⟩

/-- Settles O21: each command's equation, and for SAMPLE its two kinds of end. -/
theorem framesOfTheCommands : Obligations.FramesOfTheCommands := by
  refine fun s t => ⟨fun h => ?_, fun h => ?_, fun r h => ⟨fun hok => ?_, exec_sample_faulted h⟩, fun x h => ?_⟩
  · obtain rfl := Host.Outcome.next.inj ((exec_nop s).symm.trans h)
    rfl
  · obtain rfl := Host.Outcome.next.inj ((exec_zero s).symm.trans h)
    rfl
  · obtain ⟨-, -, rfl⟩ := exec_sample_completed h hok
    exact ⟨_, rfl⟩
  · obtain rfl := Host.Outcome.next.inj ((exec_reserved x s).symm.trans h)
    exact ⟨_, rfl⟩

/-- A transaction that asks for no reset is its decoded command (rule R38). -/
theorem transact_of_command {s : State} {tx : Transaction s.cfg.W} (hrst : tx.rst = false) :
    transact s tx = exec (decode tx.cw) s := by
  simp [transact, hrst]

/-- A transaction that asks for a reset is one, whatever its word (rule R64). -/
theorem transact_of_reset {s : State} {tx : Transaction s.cfg.W} (hrst : tx.rst = true) :
    transact s tx = .next s.resetTracker := by
  simp [transact, hrst]

/-- A step on a transaction that asks for no reset is its decoded command. -/
theorem step_of_command {s : State} {tx : Transaction s.cfg.W} {rest : List (Transaction s.cfg.W)}
    (hc : configLegal s.cfg = true) (hh : s.host = tx :: rest) (hrst : tx.rst = false) :
    step s = exec (decode tx.cw) { s with host := rest } :=
  (step_transaction hc hh).trans (transact_of_command hrst)

/-- A step on a transaction that asks for a reset is one. -/
theorem step_of_reset {s : State} {tx : Transaction s.cfg.W} {rest : List (Transaction s.cfg.W)}
    (hc : configLegal s.cfg = true) (hh : s.host = tx :: rest) (hrst : tx.rst = true) :
    step s = .next ({ s with host := rest } : State).resetTracker :=
  (step_transaction hc hh).trans (transact_of_reset hrst)

/-- A step on the word of a SAMPLE is that SAMPLE (rules R32, R37). -/
theorem step_of_sample {s : State} {r : Nat} {rest : List (Transaction s.cfg.W)} (hc : configLegal s.cfg = true)
    (hr : r < 2 ^ s.cfg.W) (hh : s.host = Transaction.command (encode s.cfg.W (.sample r)) :: rest) :
    step s = exec (.sample r) { s with host := rest } := by
  have hword : decode (encode s.cfg.W (.sample r)) = .sample r := decode_encode ((rawFits_iff _ _).mpr hr)
  rw [step_of_command hc hh rfl, Transaction.command, hword]

/-- Settles O15: an idle step, and the two kinds of transaction. -/
theorem stepRunsTheDecodedCommand : Obligations.StepRunsTheDecodedCommand := fun _ hc =>
  ⟨step_idle hc, fun _ _ hh => ⟨step_of_command hc hh, step_of_reset hc hh⟩⟩

/-! ## Runs without a reset: a fault is recorded -/

/-- A step keeps the parameters and takes the first transaction; it may write everything else. -/
theorem step_frame {s t : State} (h : step s = .next t) :
    ∃ l p st re, t = { s with lastRaw := l, truePosition := p, status := st, resp := re, host := s.host.tail } := by
  cases step_effect h with
  | idle hhost => exact ⟨s.lastRaw, s.truePosition, s.status, s.resp, by rw [hhost, List.tail_nil, ← hhost]⟩
  | reset hhost | nop hhost | zero hhost | sample hhost | fault hhost =>
    rw [hhost]
    exact ⟨_, _, _, _, rfl⟩

/-- After a command STATUS has a fault exactly when it had one or the command faulted (rule R56). -/
theorem exec_statusFault {i : Instr} {s t : State} (h : exec i s = .next t) :
    statusFault t.status = (statusFault s.status || t.resp.fault) := by
  obtain ⟨-, rfl⟩ | ⟨-, rfl⟩ | ⟨_, -, -, -, rfl⟩ | ⟨_, _, -, -, rfl⟩ := exec_cases h
  · simp
  · simp
  · simp
  · simp

/-- A fault in the next `k + 1` transactions is one in the first or in the `k` after it. -/
theorem faultedWithin_of_step {k : Nat} {s u : State} (h : step s = .next u) :
    faultedWithin (k + 1) s = (u.resp.fault || faultedWithin k u) := by
  rw [faultedWithin, statesAfter_of_step h, List.any_cons, faultedWithin]

/-- After a run without a reset STATUS has a fault exactly when it had one or a transaction faulted (rule R50). -/
theorem run_statusFault {k : Nat} {s t : State} (hk : k ≤ s.host.length)
    (hrst : ∀ tx ∈ s.host.take k, tx.rst = false) (h : Host.Core.run Sys2Proof.core k s = .next t) :
    statusFault t.status = (statusFault s.status || faultedWithin k s) := by
  induction k generalizing s with
  | zero =>
    obtain rfl : s = t := Host.Outcome.next.inj h
    simp [faultedWithin, statesAfter]
  | succ k ih =>
    obtain ⟨u, hu, hrun⟩ := run_succ h
    obtain ⟨tx, rest, hh⟩ := List.exists_cons_of_length_pos (Nat.zero_lt_of_lt hk)
    rw [hh, List.take_succ_cons, List.forall_mem_cons] at hrst
    have hexec := (step_of_command (step_legal hu) hh hrst.1).symm.trans hu
    have hrest : statusFault t.status = (statusFault u.status || faultedWithin k u) := by
      obtain ⟨l, p, st, re, rfl⟩ := step_frame hu
      refine ih ?_ ?_ hrun
      · simpa [hh] using hk
      · simpa [hh] using hrst.2
    rw [hrest, exec_statusFault hexec, faultedWithin_of_step hu, Bool.or_assoc]

/-- Settles O30: with no fault recorded at the start, STATUS at the end tells whether the run faulted. -/
theorem faultedRunIsRecorded : Obligations.FaultedRunIsRecorded := by
  intro s t k hk hclear hrst h
  rw [run_statusFault hk hrst h, hclear, Bool.false_or]

/-! ## The congruence of the two registers -/

/-- The new position of a reading (rule R39). -/
theorem newPosition_eq (s : State) (r : Nat) :
    s.newPosition r = s.truePosition + corr s.cfg.M ((r : Int) - (s.lastRaw.toNat : Int)) := rfl

/-- The new position less the reading is congruent to the old position less the old reading (rule R45). -/
theorem newPosition_sub_modEq (s : State) (r : Nat) :
    s.newPosition r - r ≡ s.truePosition - s.lastRaw.toNat [ZMOD s.cfg.M] :=
  calc s.newPosition r - r
      = s.truePosition + corr s.cfg.M ((r : Int) - (s.lastRaw.toNat : Int)) - r := by rw [newPosition_eq]
    _ ≡ s.truePosition + ((r : Int) - s.lastRaw.toNat) - r [ZMOD s.cfg.M] :=
      ((corr_modEq _ _).add_left _).sub_right _
    _ = s.truePosition - s.lastRaw.toNat := by omega

/-- Reset makes the two registers congruent (rule R45). -/
@[simp] theorem congruence_resetTracker (s : State) : congruence s.resetTracker = 0 := by
  simp [congruence]

/-- ZERO leaves the negative of `last_raw` (rule R45). -/
theorem congruence_zero (s : State) :
    congruence (s.writePosition 0).respondOk = (-(s.lastRaw.toNat : Int)) % (s.cfg.M : Int) := by
  simp [congruence]

/-- Every command but ZERO keeps the congruence (rule R45). -/
theorem exec_congruence {i : Instr} {s t : State} (h : exec i s = .next t) (hc : configLegal s.cfg = true)
    (hi : i ≠ .zero) : congruence t = congruence s := by
  obtain ⟨-, rfl⟩ | ⟨rfl, -⟩ | ⟨raw, -, hraw, -, rfl⟩ | ⟨_, _, -, -, rfl⟩ := exec_cases h
  · rfl
  · exact absurd rfl hi
  · have hstored : (rawRegister s.cfg.W raw).toNat = raw := rawRegister_toNat_of_lt_modulus hc hraw
    simpa [congruence, hstored] using (newPosition_sub_modEq s raw).eq
  · rfl

/-- A completing SAMPLE lets the host recover the `last_raw` before it (rule R45). -/
theorem lastRaw_of_newPosition {s : State} (hl : s.lastRaw.toNat < s.cfg.M) (r : Nat) :
    (s.lastRaw.toNat : Int) = ((r : Int) - (s.newPosition r - s.truePosition)) % (s.cfg.M : Int) := by
  have hcongr : (r : Int) - (s.newPosition r - s.truePosition) ≡ s.lastRaw.toNat [ZMOD s.cfg.M] :=
    calc (r : Int) - (s.newPosition r - s.truePosition)
        = s.truePosition - (s.newPosition r - r) := by omega
      _ ≡ s.truePosition - (s.truePosition - s.lastRaw.toNat) [ZMOD s.cfg.M] :=
        (newPosition_sub_modEq s r).sub_left _
      _ = s.lastRaw.toNat := by omega
  rw [hcongr.eq, Int.emod_eq_of_lt (by omega) (by omega)]

/-- A step on a command other than ZERO keeps the congruence (rule R45). -/
theorem step_command_congruence {s t : State} {tx : Transaction s.cfg.W} {rest : List (Transaction s.cfg.W)}
    (h : step s = .next t) (hh : s.host = tx :: rest) (hrst : tx.rst = false) (hcmd : decode tx.cw ≠ .zero) :
    congruence t = congruence s := by
  have hc : configLegal s.cfg = true := step_legal h
  rw [step_of_command hc hh hrst] at h
  exact exec_congruence (s := { s with host := rest }) h hc hcmd

/-- A step without a ZERO keeps the congruence, or resets it. -/
theorem step_congruence {s t : State} (h : step s = .next t)
    (hzero : ∀ tx ∈ s.host, tx.rst = true ∨ decode tx.cw ≠ .zero) :
    congruence t = 0 ∨ congruence t = congruence s := by
  have hc : configLegal s.cfg = true := step_legal h
  cases hh : s.host with
  | nil =>
    obtain rfl := Host.Outcome.next.inj ((step_idle hc hh).symm.trans h)
    exact .inr rfl
  | cons tx rest =>
    cases hrst : tx.rst with
    | true =>
      obtain rfl := Host.Outcome.next.inj ((step_of_reset hc hh hrst).symm.trans h)
      exact .inl (congruence_resetTracker _)
    | false =>
      have hcmd : decode tx.cw ≠ .zero := (hzero tx (by simp [hh])).resolve_left (by simp [hrst])
      exact .inr (step_command_congruence h hh hrst hcmd)

/-- The two registers are congruent and no ZERO comes (rule R45). -/
def CongruentWithoutZero (s : State) : Prop :=
  congruence s = 0 ∧ ∀ tx ∈ s.host, tx.rst = true ∨ decode tx.cw ≠ .zero

theorem congruentWithoutZero_step {s t : State} (hs : CongruentWithoutZero s) (h : step s = .next t) :
    CongruentWithoutZero t := by
  obtain ⟨hcongr, hzero⟩ := hs
  refine ⟨(step_congruence h hzero).elim id (·.trans hcongr), ?_⟩
  obtain ⟨l, p, st, re, rfl⟩ := step_frame h
  exact fun tx htx => hzero tx (List.mem_of_mem_tail htx)

/-- Settles O41: the congruence after each kind of transaction, and along a run whose stream has no ZERO. -/
theorem congruenceOfPositionAndRaw : Obligations.CongruenceOfPositionAndRaw := by
  refine ⟨fun s t tx rest hs hh h => ⟨fun hrst => ?_, fun hrst hzero => ?_, fun hrst hcmd => ?_,
    fun r hrst hcmd hok => ?_⟩, fun c txs k t hc hzero h => ?_⟩
  · obtain rfl := Host.Outcome.next.inj ((step_of_reset hs.legal hh hrst).symm.trans h)
    exact congruence_resetTracker _
  · rw [step_of_command hs.legal hh hrst, hzero, exec_zero] at h
    obtain rfl := Host.Outcome.next.inj h
    exact congruence_zero _
  · exact step_command_congruence h hh hrst hcmd
  · rw [step_of_command hs.legal hh hrst, hcmd] at h
    obtain ⟨-, -, rfl⟩ := exec_sample_completed h hok
    exact lastRaw_of_newPosition hs.lastRaw r
  · obtain ⟨hcongr, -⟩ : CongruentWithoutZero t :=
      run_keeps (fun _ _ hs h => congruentWithoutZero_step hs h) h ⟨by simp [State.loaded, congruence], hzero⟩
    obtain rfl : t.cfg = c := run_cfg h
    exact Int.emod_eq_emod_iff_emod_sub_eq_zero.mpr hcongr

/-! ## Reversal and repeated reads -/

/-- What a completing SAMPLE leaves in the registers (rule R39). -/
theorem exec_sample_registers {s t : State} {r : Nat} (h : exec (.sample r) s = .next t)
    (hc : configLegal s.cfg = true) (hok : t.resp.fault = false) :
    t.cfg = s.cfg ∧ t.lastRaw.toNat = r ∧
      t.truePosition = s.truePosition + corr s.cfg.M ((r : Int) - (s.lastRaw.toNat : Int)) := by
  obtain ⟨hr, -, rfl⟩ := exec_sample_completed h hok
  exact ⟨rfl, rawRegister_toNat_of_lt_modulus hc hr, rfl⟩

/-- Settles O43: the second SAMPLE's raw delta is the negative of the first one's. -/
theorem directionReversalIsExact : Obligations.DirectionReversalIsExact := by
  refine ⟨fun M delta _ _ => corr_neg M delta, fun s t u b hs ht htok hu huok => ?_⟩
  obtain ⟨htc, htl, htp⟩ := exec_sample_registers ht hs.legal htok
  obtain ⟨-, hul, hup⟩ := exec_sample_registers hu (by rw [htc]; exact hs.legal) huok
  refine ⟨?_, hul⟩
  rw [hup, htp, htl, htc, ← neg_sub, corr_neg]
  omega

/-- SAMPLE of `last_raw` only responds (rule R48). -/
theorem exec_sample_lastRaw {s : State} (hl : s.lastRaw.toNat < s.cfg.M)
    (hp : positionFits s.cfg.P s.truePosition = true) :
    exec (.sample s.lastRaw.toNat) s = .next s.respondOk := by
  have hsame : s.newPosition s.lastRaw.toNat = s.truePosition := by
    rw [newPosition_eq, Int.sub_self, corr_zero, Int.add_zero]
  rw [exec_sample_completes hl (by rwa [hsame]), hsame, State.writeLastRaw, State.writePosition, rawRegister_of_toNat]

/-- Settles O44: a SAMPLE of `last_raw`; after a completing SAMPLE its operand is `last_raw`. -/
theorem repeatedReadChangesNothing : Obligations.RepeatedReadChangesNothing := by
  refine ⟨fun s hs => exec_sample_lastRaw hs.lastRaw ((positionInRange_iff s).mp hs.position),
    fun s t r hc h hok => ?_⟩
  obtain ⟨-, hl, -⟩ := exec_sample_registers h hc hok
  obtain ⟨hr, hfits, rfl⟩ := exec_sample_completed h hok
  have hrepeat := exec_sample_lastRaw (hl.trans_lt hr) hfits
  rwa [hl] at hrepeat

/-! ## The sum of the corrected deltas -/

/-- Corrected deltas that need no correction telescope (rule R49). -/
theorem correctedSum_of_smallRawSteps {M l : Nat} {rs : List Nat} (h : smallRawSteps M l rs) :
    correctedSum M l rs = (rs.getLastD l : Int) - l := by
  induction rs generalizing l with
  | nil => simp [correctedSum]
  | cons r rs ih =>
    obtain ⟨hstep, hrest⟩ := h
    have habove : (r : Int) - l ≤ |(r : Int) - l| := le_abs_self _
    have hbelow : -|(r : Int) - l| ≤ (r : Int) - l := neg_abs_le _
    have hdelta : corr M ((r : Int) - l) = (r : Int) - l := corr_of_within (by omega) (by omega)
    rw [correctedSum, hdelta, ih hrest, List.getLastD_cons]
    omega

/-- A run of completing SAMPLEs adds up the corrected deltas and ends at the last reading (rule R49). -/
theorem run_of_samples {s t : State} {rs : List Nat} (hc : configLegal s.cfg = true)
    (hh : s.host = rs.map fun r => Transaction.command (encode s.cfg.W (.sample r)))
    (hrs : ∀ r ∈ rs, r < 2 ^ s.cfg.W) (hok : faultedWithin rs.length s = false)
    (h : Host.Core.run Sys2Proof.core rs.length s = .next t) :
    t.truePosition = s.truePosition + correctedSum s.cfg.M (s.lastRaw.toNat : Int) rs ∧
      t.lastRaw.toNat = rs.getLastD s.lastRaw.toNat := by
  induction rs generalizing s with
  | nil =>
    obtain rfl : s = t := Host.Outcome.next.inj h
    simp [correctedSum]
  | cons r rs ih =>
    obtain ⟨hr, hrs⟩ := List.forall_mem_cons.mp hrs
    obtain ⟨u, hu, hrun⟩ := run_succ h
    rw [List.length_cons, faultedWithin_of_step hu, Bool.or_eq_false_iff] at hok
    rw [step_of_sample hc hr hh] at hu
    obtain ⟨-, hul, hup⟩ := exec_sample_registers hu hc hok.1
    obtain ⟨hposition, hlast⟩ : t.truePosition = u.truePosition + correctedSum s.cfg.M (u.lastRaw.toNat : Int) rs ∧
        t.lastRaw.toNat = rs.getLastD u.lastRaw.toNat := by
      obtain ⟨-, -, rfl⟩ := exec_sample_completed hu hok.1
      exact ih hc rfl hrs hok.2 hrun
    rw [hposition, hlast, hul, hup, correctedSum, List.getLastD_cons]
    exact ⟨Int.add_assoc _ _ _, rfl⟩

/-- Settles O45: what ZERO writes, the sum, and its telescoping to the last reading. -/
theorem positionIsTheSumOfDeltas : Obligations.PositionIsTheSumOfDeltas := by
  refine ⟨fun s z h => ?_, fun s t rs hc hh hrs hok h => ?_⟩
  · obtain rfl := Host.Outcome.next.inj ((exec_zero s).symm.trans h)
    exact ⟨rfl, rfl⟩
  · obtain ⟨hposition, hlast⟩ := run_of_samples hc hh hrs hok h
    refine ⟨hposition, fun hsmall => ?_⟩
    rw [hposition, hlast, correctedSum_of_smallRawSteps hsmall]
    omega

/-! ## The shaft -/

/-- The counter's reading is in range. -/
theorem counterReading_lt {M : Nat} (hM : 1 ≤ M) (x : Int) : counterReading M x < M := by
  have hlt : x % (M : Int) < M := Int.emod_lt_of_pos _ (by omega)
  have hnonneg : 0 ≤ x % (M : Int) := Int.emod_nonneg _ (by omega)
  rw [counterReading]
  omega

/-- The counter's reading is congruent to the shaft's tick. -/
theorem counterReading_modEq {M : Nat} (hM : 1 ≤ M) (x : Int) : (counterReading M x : Int) ≡ x [ZMOD M] := by
  rw [counterReading, Int.toNat_of_nonneg (Int.emod_nonneg _ (by omega))]
  exact Int.mod_modEq x M

/-- Within the sampling contract the correction of two readings is the shaft's displacement (rules R46, R68). -/
theorem corr_counterReading {M : Nat} (hM : 1 ≤ M) (x t : Int) (hcontract : samplingContract M t) :
    corr M ((counterReading M (x + t) : Int) - (counterReading M x : Int)) = t := by
  refine corr_sub_eq_of_contract (by omega) ?_ (by omega) ?_ ?_ hcontract
  · exact_mod_cast counterReading_lt hM x
  · exact_mod_cast counterReading_lt hM (x + t)
  · exact (counterReading_modEq hM (x + t)).trans ((counterReading_modEq hM x).symm.add_right t)

/-- One step of the host that samples the shaft within the contract: the SAMPLE completes, moves the position by the
displacement and leaves the new reading in `last_raw`. -/
theorem step_of_shaftSample {s : State} {x t : Int} {rest : List (Transaction s.cfg.W)}
    (hc : configLegal s.cfg = true) (hl : s.lastRaw.toNat = counterReading s.cfg.M x)
    (hcontract : samplingContract s.cfg.M t) (hfits : positionFits s.cfg.P (s.truePosition + t) = true)
    (hh : s.host = Transaction.command (encode s.cfg.W (.sample (counterReading s.cfg.M (x + t)))) :: rest) :
    step s = .next ((({ s with host := rest } : State).writePosition (s.truePosition + t)).writeLastRaw
      (counterReading s.cfg.M (x + t))).respondOk := by
  obtain ⟨hM, hMW, -, -⟩ := (configLegal_iff s.cfg).mp hc
  have hr : counterReading s.cfg.M (x + t) < s.cfg.M := counterReading_lt hM (x + t)
  have hposition :
      ({ s with host := rest } : State).newPosition (counterReading s.cfg.M (x + t)) = s.truePosition + t := by
    rw [newPosition_eq, hl, corr_counterReading hM x t hcontract]
  rw [step_of_sample hc (hr.trans_le hMW) hh, ← hposition]
  exact exec_sample_completes hr (by rwa [hposition])

/-- Along the displacements each step starts as the first did: `last_raw` is the reading at the shaft's tick (R46, R49). -/
theorem run_of_shaftSamples {s : State} {x : Int} {ts : List Int} (hc : configLegal s.cfg = true)
    (hl : s.lastRaw.toNat = counterReading s.cfg.M x) (hcontract : ∀ t ∈ ts, samplingContract s.cfg.M t)
    (hfits : ∀ k, positionFits s.cfg.P (s.truePosition + (ts.take k).sum) = true)
    (hh : s.host = shaftSamples s.cfg x ts) :
    ∃ t, Host.Core.run Sys2Proof.core ts.length s = .next t ∧
      t.truePosition = s.truePosition + ts.sum ∧ t.lastRaw.toNat = counterReading s.cfg.M (x + ts.sum) ∧
      t.status.toNat = s.status.toNat ∧ faultedWithin ts.length s = false := by
  induction ts generalizing s x with
  | nil => exact ⟨s, run_zero s, by simp, by simpa using hl, rfl, rfl⟩
  | cons d ts ih =>
    obtain ⟨hd, hcontract⟩ := List.forall_mem_cons.mp hcontract
    have hstep := step_of_shaftSample hc hl hd (by simpa using hfits 1) hh
    have hr : counterReading s.cfg.M (x + d) < s.cfg.M := counterReading_lt ((configLegal_iff s.cfg).mp hc).1 (x + d)
    obtain ⟨t, hrun, hposition, hlast, hstatus, hok⟩ :=
      ih (s := ((({ s with host := shaftSamples s.cfg (x + d) ts } : State).writePosition
          (s.truePosition + d)).writeLastRaw (counterReading s.cfg.M (x + d))).respondOk) (x := x + d) hc
        (rawRegister_toNat_of_lt_modulus hc hr) hcontract
        (fun k => by simpa [Int.add_assoc] using hfits (k + 1)) rfl
    refine ⟨t, (run_of_step hstep).trans hrun, ?_, ?_, hstatus, ?_⟩
    · rw [hposition, List.sum_cons, ← Int.add_assoc]
      rfl
    · rw [hlast, List.sum_cons, ← Int.add_assoc]
      rfl
    · rw [List.length_cons, faultedWithin_of_step hstep, hok]
      rfl

/-- Settles O48: a legal state that agrees with the counter is all that a run of the shaft's samples needs. -/
theorem positionFollowsTheShaft : Obligations.PositionFollowsTheShaft :=
  fun _ _ _ hs hl hcontract hfits hh =>
    run_of_shaftSamples hs.legal hl hcontract (fun k => (positionFits_iff _ _).mpr (hfits k)) hh

end Sys2Proof.Machine
end

section
/-! PROOFS. The statements of 60_exceptions.md: the cause codes and the two faults of SAMPLE (rules R51, R52, R54), how far
the position moves in a run (R54), an aliased reading (R55), precise faults (R56, R57) and the order of the checks (R58).
What the position can do rests on one bound: a reading in range moves it by at most half a modulus. -/

namespace Sys2Proof.Machine

/-! ## The causes and SAMPLE's range check -/

/-- Settles O25: the table of codes. -/
theorem causeCodes : Obligations.CauseCodes := ⟨rfl, rfl, rfl, rfl⟩

/-- SAMPLE answers PRECONDITION_VIOLATION exactly when its operand is out of range (rule R52). -/
theorem exec_sample_precondition_iff {s t : State} {r : Nat} (h : exec (.sample r) s = .next t) :
    t.resp.cause = .preconditionViolation ↔ s.cfg.M ≤ r := by
  obtain ⟨hr, -, rfl⟩ | ⟨hr, -, rfl⟩ | ⟨hr, rfl⟩ := exec_sample_cases h
  · simp [hr]
  · simp [hr]
  · simp [hr]

/-- Settles O22: the cause by the range check, the fault's frame, and no operand of `W` bits out of the full range. -/
theorem preconditionViolationExactly : Obligations.PreconditionViolationExactly := by
  intro s t r h
  refine ⟨exec_sample_precondition_iff h, fun hr => ?_, fun hM hfits => ?_⟩
  · obtain rfl := Host.Outcome.next.inj ((exec_sample_of_outOfRange hr).symm.trans h)
    exact ⟨rfl, rfl, rfl⟩
  · rw [Ne, exec_sample_precondition_iff h, hM, not_le]
    exact (rawFits_iff _ _).mp hfits

/-! ## How far the position moves -/

/-- A reading in range moves the position by at most half a modulus (rules R39, R44). -/
theorem two_mul_abs_newPosition_sub_le {s : State} (hl : s.lastRaw.toNat < s.cfg.M) {r : Nat} (hr : r < s.cfg.M) :
    2 * |s.newPosition r - s.truePosition| ≤ s.cfg.M := by
  rw [newPosition_eq, add_sub_cancel_left]
  exact two_mul_abs_corr_le (by omega) (by omega)

/-- A position that does not fit is beyond one end of a finite register (rules R4, R54). -/
theorem positionFits_eq_false_iff (P : PosWidth) (p : Int) :
    positionFits P p = false ↔ ∃ n, P = .bits n ∧ (p < -(2 : Int) ^ (n - 1) ∨ (2 : Int) ^ (n - 1) ≤ p) := by
  cases P with
  | inf => simp [positionFits]
  | bits n => simp [positionFits, imp_iff_not_or]

/-- Settles O23: the new position is beyond an end and within half a modulus of the old one. -/
theorem overflowOnlyNearTheEnds : Obligations.OverflowOnlyNearTheEnds := by
  intro s t r hs h hcause
  obtain ⟨-, -, rfl⟩ | ⟨hr, hfits, rfl⟩ | ⟨-, rfl⟩ := exec_sample_cases h
  · cases hcause
  · obtain ⟨n, hn, hend⟩ := (positionFits_eq_false_iff _ _).mp hfits
    obtain ⟨-, -, -, hwidth⟩ := (configLegal_iff s.cfg).mp hs.legal
    have hn32 : 32 ≤ n := (hwidth n hn).1
    have hpow : (2 : Int) ^ n = 2 * 2 ^ (n - 1) := (mul_pow_sub_one (by omega) 2).symm
    have hmoved : 2 * |s.newPosition r - s.truePosition| ≤ s.cfg.M := two_mul_abs_newPosition_sub_le hs.lastRaw hr
    have hup : s.newPosition r - s.truePosition ≤ |s.newPosition r - s.truePosition| := le_abs_self _
    have hdown : -|s.newPosition r - s.truePosition| ≤ s.newPosition r - s.truePosition := neg_abs_le _
    refine ⟨n, hn, ?_, rfl, rfl⟩
    obtain hlow | hhigh := hend
    · exact .inr (by omega)
    · exact .inl (by omega)
  · cases hcause

/-- A step moves the position by at most half a modulus, or it is a reset or a ZERO and sets it to 0
(rules R11, R44, R54). -/
theorem step_movement {s t : State} (hl : s.lastRaw.toNat < s.cfg.M) (h : step s = .next t) :
    2 * |t.truePosition - s.truePosition| ≤ s.cfg.M ∨
      t.truePosition = 0 ∧ ∃ tx rest, s.host = tx :: rest ∧ (tx.rst = true ∨ decode tx.cw = .zero) := by
  cases step_effect h with
  | idle | nop | fault => exact .inl (by simp)
  | reset hhost hrst => exact .inr ⟨rfl, _, _, hhost, .inl hrst⟩
  | zero hhost _ hcmd => exact .inr ⟨rfl, _, _, hhost, .inr hcmd⟩
  | sample _ _ _ hraw _ => exact .inl (two_mul_abs_newPosition_sub_le hl hraw)

/-- A step adds at most half a modulus to the position's magnitude (rule R54). -/
theorem step_magnitude {s t : State} (hl : s.lastRaw.toNat < s.cfg.M) (h : step s = .next t) :
    2 * |t.truePosition| ≤ 2 * |s.truePosition| + s.cfg.M := by
  obtain hmoved | ⟨hzero, -⟩ := step_movement hl h
  · have htriangle : |t.truePosition| - |s.truePosition| ≤ |t.truePosition - s.truePosition| :=
      abs_sub_abs_le_abs_sub _ _
    omega
  · rw [hzero, abs_zero]
    positivity

/-- Settles O24: the bound of one step, along the run. -/
theorem positionGrowsByHalfAModulus : Obligations.PositionGrowsByHalfAModulus := by
  intro s t n hs h
  induction n generalizing s with
  | zero =>
    obtain rfl : s = t := Host.Outcome.next.inj h
    simp
  | succ n ih =>
    obtain ⟨u, hu, hrun⟩ := run_succ h
    have hfirst : 2 * |u.truePosition| ≤ 2 * |s.truePosition| + s.cfg.M := step_magnitude hs.lastRaw hu
    have hrest : 2 * |t.truePosition| ≤ 2 * |u.truePosition| + (n : Int) * s.cfg.M := by
      simpa only [step_cfg hu] using ih u (trackerInv_step hs hu) hrun
    calc 2 * |t.truePosition| ≤ 2 * |u.truePosition| + (n : Int) * s.cfg.M := hrest
      _ ≤ 2 * |s.truePosition| + s.cfg.M + (n : Int) * s.cfg.M := by gcongr
      _ = 2 * |s.truePosition| + ((n + 1 : Nat) : Int) * s.cfg.M := by push_cast; ring

/-- A step that is neither a reset nor a ZERO moves the position by at most half a modulus (rules R44, R54). -/
theorem step_movement_le {s t : State} (hl : s.lastRaw.toNat < s.cfg.M) (h : step s = .next t)
    (hcommand : ∀ tx rest, s.host = tx :: rest → tx.rst = false ∧ decode tx.cw ≠ .zero) :
    2 * |t.truePosition - s.truePosition| ≤ s.cfg.M := by
  obtain hmoved | ⟨-, tx, rest, hh, hreset⟩ := step_movement hl h
  · exact hmoved
  · obtain ⟨hrst, hcmd⟩ := hcommand tx rest hh
    simp [hrst, hcmd] at hreset

/-- Settles O51: the bound of one step, along a run whose stream has no reset and no ZERO. -/
theorem positionMovesByAtMostHalfAModulus : Obligations.PositionMovesByAtMostHalfAModulus := by
  intro s t n hs hcommands h
  induction n generalizing s with
  | zero =>
    obtain rfl : s = t := Host.Outcome.next.inj h
    simp
  | succ n ih =>
    obtain ⟨u, hu, hrun⟩ := run_succ h
    have hfirst : 2 * |u.truePosition - s.truePosition| ≤ s.cfg.M :=
      step_movement_le hs.lastRaw hu fun tx rest hh => hcommands tx (by simp [hh])
    have hlater : ∀ tx ∈ u.host.take n, tx.rst = false ∧ decode tx.cw ≠ .zero := by
      obtain ⟨l, p, st, re, rfl⟩ := step_frame hu
      exact fun tx htx => hcommands tx (List.mem_of_mem_tail (by rwa [List.tail_take_eq_take_tail]))
    have hrest : 2 * |t.truePosition - u.truePosition| ≤ (n : Int) * s.cfg.M := by
      simpa only [step_cfg hu] using ih u (trackerInv_step hs hu) hlater hrun
    have htriangle : |t.truePosition - s.truePosition| ≤
        |t.truePosition - u.truePosition| + |u.truePosition - s.truePosition| := abs_sub_le _ _ _
    calc 2 * |t.truePosition - s.truePosition|
        ≤ 2 * |t.truePosition - u.truePosition| + 2 * |u.truePosition - s.truePosition| := by omega
      _ ≤ (n : Int) * s.cfg.M + s.cfg.M := by gcongr
      _ = ((n + 1 : Nat) : Int) * s.cfg.M := by push_cast; ring

/-! ## An aliased reading -/

/-- Settles O49: the reading is in range and its position fits, so the SAMPLE completes, with a correction that is within
half a modulus, where the displacement is not. -/
theorem aliasingGivesNoSignal : Obligations.AliasingGivesNoSignal := by
  intro s t x d hs _ hbeyond hfits h
  have hM : 1 ≤ s.cfg.M := ((configLegal_iff s.cfg).mp hs.legal).1
  have hr : counterReading s.cfg.M (x + d) < s.cfg.M := counterReading_lt hM (x + d)
  obtain rfl := Host.Outcome.next.inj
    ((exec_sample_completes hr ((positionFits_iff _ _).mpr hfits)).symm.trans h)
  refine ⟨rfl, rfl, fun haliased => ?_⟩
  have hmoved := two_mul_abs_newPosition_sub_le hs.lastRaw hr
  have hnew : s.newPosition (counterReading s.cfg.M (x + d)) = s.truePosition + d := haliased
  rw [hnew, add_sub_cancel_left] at hmoved
  omega

/-! ## Precise faults -/

/-- The operand of a decoded SAMPLE or reserved word is, as a register value, the raw field of the word
(rules R31, R56). -/
theorem rawRegister_of_decode {W : Nat} {cw : CommandWord W} {raw : Nat}
    (h : decode cw = .sample raw ∨ decode cw = .reserved raw) : rawRegister W raw = rawField cw := by
  obtain h | h := h
  · have hcode : cmdField cw = 0b01#2 := by rw [← code_decode, h, Instr.code]
    rw [← rawBits_decode (.inl hcode), h, Instr.rawBits, rawRegister]
  · have hcode : cmdField cw = 0b11#2 := by rw [← code_decode, h, Instr.code]
    rw [← rawBits_decode (.inr hcode), h, Instr.rawBits, rawRegister]

/-- A step that faulted raised its fault, and did nothing else, on the state whose stream begins after the word
(rules R56, R57). -/
theorem step_faulted {s t : State} {tx : Transaction s.cfg.W} {rest : List (Transaction s.cfg.W)}
    (hh : s.host = tx :: rest) (h : step s = .next t) (hfault : t.resp.fault = true) :
    t = ({ s with host := rest } : State).raiseFault t.resp.cause (rawField tx.cw) := by
  cases step_effect h with
  | idle hhost => simp [hhost] at hh
  | reset | nop | zero | sample => simp at hfault
  | fault hhost _ hcmd _ =>
    obtain ⟨rfl, rfl⟩ := List.cons.inj (hhost.symm.trans hh)
    rw [rawRegister_of_decode hcmd, State.raiseFault_resp]

/-- Settles O27: what raising a fault writes, and the next step of a legal instance. -/
theorem faultsArePreciseAndFirstIsKept : Obligations.FaultsArePreciseAndFirstIsKept :=
  fun _ _ _ _ hc hh h hfault =>
    ⟨step_faulted hh h hfault, step_answers (by rw [step_cfg h]; exact hc)⟩

/-! ## The order of the checks -/

/-- Settles O28: a reset before any command, then the command of the code, and for SAMPLE its three ends. -/
theorem checksHaveOneOrder : Obligations.ChecksHaveOneOrder := by
  intro s t tx rest hc hh h
  obtain ⟨-, hnop, hsample, hzero, hreserved⟩ := decodeFollowsTheCodes _ tx.cw
  have hanswer {i : Instr} {u : State} (hrst : tx.rst = false) (hi : decode tx.cw = i)
      (hu : exec i { s with host := rest } = .next u) : t = u := by
    rw [← hi, ← step_of_command hc hh hrst, h] at hu
    exact Host.Outcome.next.inj hu
  refine ⟨fun hrst => ?_, fun hrst h3 => ?_, fun hrst hok => ?_, fun hrst h1 hr => ?_, fun hrst h1 hr hfits => ?_,
    fun hrst h1 hr hfits => ?_⟩
  · rw [Host.Outcome.next.inj (h.symm.trans (step_of_reset hc hh hrst)), State.resetTracker_resp]
  · rw [hanswer hrst (hreserved h3) (exec_reserved _ _), State.raiseFault_resp]
  · obtain h0 | h2 := hok
    · rw [hanswer hrst (hnop h0) (exec_nop _), State.respondOk_resp]
    · rw [hanswer hrst (hzero h2) (exec_zero _), State.respondOk_resp]
  · rw [hanswer hrst (hsample h1) (exec_sample_of_outOfRange hr), State.raiseFault_resp]
  · have hover := mt (positionFits_iff _ _).mp hfits
    rw [hanswer hrst (hsample h1) (exec_sample_of_overflow hr hover), State.raiseFault_resp]
  · have hwithin := (positionFits_iff _ _).mpr hfits
    rw [hanswer hrst (hsample h1) (exec_sample_completes hr hwithin), State.respondOk_resp]

end Sys2Proof.Machine
end

section
/-! PROOFS. The statements of 70_reset_and_hazards.md: the reset transaction (rule R64), a SAMPLE that starts from the
origin, after reset or after a ZERO (rules R66, R67, R69), the block taking every transaction (rule R71), and a modulus
larger than the counter's period (rule R72). A legal position register is wide enough for any one correction, so a SAMPLE
in range from position 0 completes. -/

namespace Sys2Proof.Machine

/-! ## Reset and the run -/

/-- Settles O14: a reset step, power-up of a legal instance, and the next step of the same parameters. -/
theorem resetTransactionResets : Obligations.ResetTransactionResets :=
  fun _ _ _ hc hh => ⟨step_of_reset hc hh rfl, powerUp_of_legal hc, step_answers hc⟩

/-- Settles O16: the run that takes every transaction keeps the parameters, as every run does. -/
theorem runTakesEveryTransaction : Obligations.RunTakesEveryTransaction := by
  intro s hc
  obtain ⟨t, hrun, hempty⟩ := run_takes_every_transaction hc
  exact ⟨t, hrun, run_cfg hrun, hempty⟩

/-! ## A SAMPLE from the origin -/

/-- Every position register of a legal instance holds the correction of any two raw values: it has more than `W` bits
(rules R4, R44). -/
theorem positionFits_corr {c : Config} (hc : configLegal c = true) {l r : Nat} (hl : l < c.M) (hr : r < c.M) :
    positionFits c.P (corr c.M ((r : Int) - (l : Int))) = true := by
  obtain ⟨-, hMW, -, hwidth⟩ := (configLegal_iff c).mp hc
  obtain ⟨hmin, hmax⟩ := corr_within_half (M := c.M) (delta := (r : Int) - (l : Int)) (by omega) (by omega)
  rw [positionFits_iff]
  intro n hn
  obtain ⟨-, hWn⟩ := hwidth n hn
  have hM : (c.M : Int) ≤ 2 ^ (n - 1) := by
    exact_mod_cast hMW.trans (Nat.pow_le_pow_right two_pos (Nat.le_sub_one_of_lt hWn))
  omega

/-- A SAMPLE in range from position 0 completes, with the corrected delta as the position (rules R66, R69). -/
theorem exec_sample_from_origin {s : State} (hc : configLegal s.cfg = true) (hl : s.lastRaw.toNat < s.cfg.M)
    (hp : s.truePosition = 0) {r : Nat} (hr : r < s.cfg.M) :
    exec (.sample r) s = .next
      ((s.writePosition (corr s.cfg.M ((r : Int) - (s.lastRaw.toNat : Int)))).writeLastRaw r).respondOk := by
  have hposition : s.newPosition r = corr s.cfg.M ((r : Int) - (s.lastRaw.toNat : Int)) := by
    rw [newPosition_eq, hp, Int.zero_add]
  rw [← hposition]
  exact exec_sample_completes hr (by rw [hposition]; exact positionFits_corr hc hl hr)

/-- Settles O46: ZERO sets the position to 0 and keeps `last_raw`, so the SAMPLE starts from the origin. -/
theorem noHazardAcrossZero : Obligations.NoHazardAcrossZero := by
  intro s z r hs hr h
  obtain rfl := Host.Outcome.next.inj ((exec_zero s).symm.trans h)
  exact ⟨_, exec_sample_from_origin (s := (s.writePosition 0).respondOk) hs.legal hs.lastRaw rfl hr, rfl,
    rawRegister_toNat_of_lt_modulus hs.legal hr, rfl⟩

/-- Settles O47: the reset state is at the origin with `last_raw = 0`; ZERO writes the position only. -/
theorem firstSampleAndPriming : Obligations.FirstSampleAndPriming := by
  intro c r hc hr
  have hfirst := exec_sample_from_origin (s := State.init c) hc (trackerInv_loaded hc []).lastRaw rfl hr
  have hdelta : (r : Int) - ((State.init c).lastRaw.toNat : Int) = r := by simp
  rw [hdelta] at hfirst
  exact ⟨hfirst, exec_zero _, rawRegister_toNat_of_lt_modulus hc hr⟩

/-! ## A modulus larger than the counter's period -/

/-- With a modulus larger than the counter's period, the tick across the wrap is corrected to 0, to a step backward, or by
too much: never to one tick forward (rule R72). -/
theorem corr_wrap_ne_one {M period : Nat} (hperiod : 1 ≤ period) (hM : period < M) :
    corr M (-((period - 1 : Nat) : Int)) ≠ 1 := by
  obtain ⟨_, h⟩ | ⟨_, h⟩ | ⟨_, _, h⟩ := corr_cases M (-((period - 1 : Nat) : Int)) <;> omega

/-- A SAMPLE whose correction is not the tick the shaft made completes with no signal and a wrong position, where that
position fits (rule R72). -/
theorem exec_sample_missing_tick {s : State} {r : Nat} {tick : Int} (hr : r < s.cfg.M)
    (hfits : positionFits s.cfg.P (s.newPosition r) = true)
    (htick : corr s.cfg.M ((r : Int) - (s.lastRaw.toNat : Int)) ≠ tick) :
    ∃ t, exec (.sample r) s = .next t ∧ t.resp = .ok ∧ t.status.toNat = s.status.toNat ∧
      t.truePosition ≠ s.truePosition + tick :=
  ⟨_, exec_sample_completes hr hfits, rfl, rfl, fun h => htick (Int.add_left_cancel h)⟩

/-- Settles O52: a reading below the period is in range; the two ways across the wrap are each other's negative. -/
theorem largerModulusIsUndetected : Obligations.LargerModulusIsUndetected := by
  intro s period hs hperiod hM fits
  have hwrap : corr s.cfg.M (-((period - 1 : Nat) : Int)) ≠ 1 := corr_wrap_ne_one hperiod hM
  refine ⟨fun r t hr h => ?_, fun hl hfits => ?_, fun hl hfits => ?_⟩
  · rw [Ne, exec_sample_precondition_iff h]
    omega
  · refine exec_sample_missing_tick (by omega) ((positionFits_iff _ _).mpr hfits) ?_
    rwa [hl, Nat.cast_zero, Int.zero_sub]
  · refine exec_sample_missing_tick (by omega) ((positionFits_iff _ _).mpr hfits) ?_
    rw [corr_neg] at hwrap
    rw [hl, Nat.cast_zero, Int.sub_zero]
    omega

/-- Settles O50: the delta -59999 is corrected to 5537, which a 64-bit position near the middle of its range holds. -/
theorem largerModulusExample : Obligations.LargerModulusExample := by
  intro s t hcfg hl hp h
  have hposition : s.newPosition 0 = s.truePosition + 5537 := by
    rw [newPosition_eq, hl, hcfg]
    exact congrArg (s.truePosition + ·) (by decide : corr 65536 (0 - 59999) = 5537)
  obtain ⟨hlow, hhigh⟩ := abs_lt.mp hp
  have hfits : positionFits s.cfg.P (s.newPosition 0) = true := by
    rw [hposition, hcfg, positionFits_iff]
    rintro _ ⟨⟩
    omega
  have hr : 0 < s.cfg.M := by
    rw [hcfg]
    decide
  obtain rfl := Host.Outcome.next.inj ((exec_sample_completes hr hfits).symm.trans h)
  exact ⟨rfl, hposition⟩

end Sys2Proof.Machine
end
